-- ==== Sys2Proof/Word.lean ====
section
/-!
DEFINITION. The word types of the block (00_scope.md R8): a byte is 8 bits, a byte string a finite list of bytes indexed
from 0, and every other field an unsigned bit vector of the width the spec gives it. Nothing here computes: byte-string
access, byte order and rounding stand in Machine/Bytes.lean.
-/

namespace Sys2Proof

/-- A byte, bit 7 the most significant (R8). -/
abbrev Byte := BitVec 8

/-- A byte string, byte 0 first (R8). -/
abbrev ByteString := List Byte

/-- A context id, 0..15 (R24, R91). -/
abbrev CtxId := BitVec 4

/-- A 64-bit IPv6 prefix; its most significant byte is byte 0 of the address (R24, R9). -/
abbrev Prefix64 := BitVec 64

/-- A datagram tag (R16, R29). -/
abbrev Tag := BitVec 16

/-- A datagram size, 11 bits (R26, R86). -/
abbrev Size := BitVec 11

end Sys2Proof
end

