-- ==== Sys2Proof/Config.lean ====
section
/-!
DEFINITION. The configuration record (00_scope.md R6, 10_state.md R23) and the one free value of the model, the link's
verdict (10_state.md R45). The record is a field of State (R23: it plays the part of read-only control registers), so a
statement about every state covers every configuration. Its constraints are `Configuration.admitted` in Machine/Operands.lean.
-/

namespace Sys2Proof

/-- The configuration record of R6; the constraints are in `Machine.admitted`. -/
structure Configuration where
  /-- `N_CTX`, the number of context slots. -/
  nCtx : Nat
  /-- `N_REASS`, the number of reassembly slots. -/
  nReass : Nat
  /-- `LINK_MTU`, the link frame size in bytes. -/
  linkMtu : Nat
  /-- `LL_OVERHEAD`, the link-layer overhead in bytes. -/
  llOverhead : Nat
  /-- `REASS_TIMEOUT`, the ttl of a new entry, in sweeps. -/
  reassTimeout : Nat
  /-- `OUT_CAP`, the capacity in bytes of the encoder's output buffer. -/
  outCap : Nat
deriving DecidableEq, Repr

/-- The configuration that State.reset holds: the one 95_test_vectors.md assumes, with B = 102 as an MTU of 102 and no
overhead. DESIGN CHOICE (log entry 1): the spec leaves every value open (R6, D3). Unsafe, so no statement rests on it. -/
def Configuration.ofVectors : Configuration :=
  { nCtx := 16, nReass := 4, linkMtu := 102, llOverhead := 0, reassTimeout := 3, outCap := 2048 }

/-- What the link transmit function answers for one frame (R45). -/
inductive Verdict where
  | ok
  | fail
deriving DecidableEq, Repr, Inhabited

/-- The FREE VALUE: the verdict of the n-th frame for which the environment has put no verdict into State.verdicts (R45:
"under no law"). No body, so nothing can be proved of its value. DESIGN CHOICE of form (log entry 4); safe. -/
opaque Config.linkVerdict : Nat → Verdict

end Sys2Proof
end

