-- ==== Sys2Proof/Syntax.lean ====
section
/-!
DEFINITION. The syntax: link-layer addresses (00_scope.md R7), frame classes (30_encoding.md R66), the instructions (one
constructor per row of opcode_table.json, with the operands of 30_encoding.md R90 and the fields of the row), and what the
environment can present at the block's inputs (10_state.md R40, R42, R46, R47).
-/

namespace Sys2Proof

/-- A link-layer address: its length is 2, 6 or 8 bytes (R7), one constructor each, so an address of another length cannot
be built; the port refuses it (`decode`). Two addresses are equal when length and bytes are equal (R174). -/
inductive LinkAddr where
  | short (b0 b1 : Byte)
  | mac (b0 b1 b2 b3 b4 b5 : Byte)
  | eui64 (b0 b1 b2 b3 b4 b5 b6 b7 : Byte)
deriving DecidableEq, Repr

/-- The class of a frame by its dispatch byte (R65, R66). -/
inductive FrameClass where
  | uncomp
  | iphc
  | frag1
  | fragN
  | unknown
deriving DecidableEq, Repr

/-- The instructions: every row of opcode_table.json. The first sixteen rows are the command codes 0x0..0xF (R90, R94);
`send` is the pseudo-command without a code (R93); the `rx` rows are the classes of a received frame (R155); the `tx` rows
are the two fragment frames the fragmenter sends (R145, R146), with the fields the table gives them. -/
inductive Instr where
  /-- SETCTX id, prefix (R100). -/
  | setctx (id : CtxId) (pfx : Prefix64)
  /-- RMCTX id (R101). -/
  | rmctx (id : CtxId)
  /-- LOOKUPCTX id (R102). -/
  | lookupctx (id : CtxId)
  /-- ENCODE pkt, src_ll, dst_ll (R120). -/
  | encode (pkt : ByteString) (srcLl dstLl : LinkAddr)
  /-- FRAGMENT cdg, dst_ll (R140). -/
  | fragment (cdg : ByteString) (dstLl : LinkAddr)
  /-- RECV frame, sender_ll, receiver_ll (R155). -/
  | recv (frame : ByteString) (senderLl receiverLl : LinkAddr)
  /-- TICK (R170). -/
  | tick
  /-- FLUSH (R172). -/
  | flush
  /-- The reserved command codes (R94). -/
  | reservedCmd0
  | reservedCmd9
  | reservedCmdA
  | reservedCmdB
  | reservedCmdC
  | reservedCmdD
  | reservedCmdE
  | reservedCmdF
  /-- SEND pkt, src_ll, dst_ll (R93, R151). -/
  | send (pkt : ByteString) (srcLl dstLl : LinkAddr)
  /-- A received frame of class UNCOMP (R156). -/
  | rxUncomp (frame : ByteString) (senderLl receiverLl : LinkAddr)
  /-- A received frame of class IPHC (R157). -/
  | rxIphc (frame : ByteString) (senderLl receiverLl : LinkAddr)
  /-- A received frame of class FRAG1 (R160 to R162). -/
  | rxFrag1 (frame : ByteString) (senderLl receiverLl : LinkAddr)
  /-- A received frame of class FRAGN (R163 to R168). -/
  | rxFragN (frame : ByteString) (senderLl receiverLl : LinkAddr)
  /-- A received frame of class UNKNOWN (R159). -/
  | rxUnknown (frame : ByteString) (senderLl receiverLl : LinkAddr)
  /-- One first fragment handed to the link (R145, R147): the fields of the FRAG1 header (R85) and the data. -/
  | txFrag1 (size : Size) (tag : Tag) (data : ByteString) (dstLl : LinkAddr)
  /-- One continuation fragment handed to the link (R146, R147): the fields of the FRAGN header (R86), the offset in
  units of 8 bytes, and the data. -/
  | txFragN (size : Size) (tag : Tag) (off8 : Byte) (data : ByteString) (dstLl : LinkAddr)
deriving DecidableEq, Repr

/-- The operands a command may carry beside its code, "as separate values" (R90). Link-layer addresses are raw byte
strings here: the port checks their length (R7). A command reads the ones R90 lists for it and no other. -/
structure Operands where
  id : CtxId := 0
  pfx : Prefix64 := 0
  str : ByteString := []
  addrA : ByteString := []
  addrB : ByteString := []
deriving DecidableEq, Repr

/-- One thing presented for execution, undecoded. -/
inductive PortWord where
  /-- The command port: a 4-bit code and its operands (R40, R90). -/
  | command (op : BitVec 4) (ops : Operands)
  /-- The send path's pseudo-command, which has no code (R93). -/
  | send (pkt srcLl dstLl : ByteString)
  /-- The receive path: a frame with the addresses the link reports (R42). -/
  | receive (frame senderLl receiverLl : ByteString)
  /-- A fragment frame of the two transmit rows, on its way to the link (R145, R146). DESIGN CHOICE (log entry 8). -/
  | transmit (frame dstLl : ByteString)
deriving DecidableEq, Repr

/-- Why a word is not decoded. -/
inductive DecodeError where
  /-- A link-layer address whose length is not 2, 6 or 8 (R7). -/
  | badAddressLength
  /-- A frame of the transmit rows that is neither a FRAG1 nor a FRAGN frame with a whole header (R85, R86). -/
  | notAFragmentFrame
deriving DecidableEq, Repr

/-- What decoding answers: an instruction, or a rejection by name. -/
inductive Decoded where
  | instr (i : Instr)
  | rejected (e : DecodeError)
deriving DecidableEq, Repr

/-- What the environment can present to the block (R49): something to execute, an asserted reset (R47), or a read of the
statistics port (R46). -/
inductive PortInput where
  | word (w : PortWord)
  | reset
  | readStats
deriving DecidableEq, Repr

end Sys2Proof
end

