-- ==== Sys2Proof/Machine/State.lean ====
section
/-!
DEFINITION. The state of the block (10_state.md): the configuration record (R23), the context table (R24), the reassembly
table (R26), the tag counter (R29), the statistics counters (R30), the mark `refused` (R32), what stands at the input ports
(R40, R42, R45, R46, R47) and what the output ports have presented (R41, R43, R44, R45). There is no memory (20_memory.md
R50), no register file (R20), no program counter (R21) and no flag (R22). All of it is plain data.
-/

namespace Sys2Proof.Machine

/-- A slot of the context table (R24). -/
structure CtxSlot where
  /-- `in_use`: the slot holds a context. -/
  inUse : Bool
  /-- `id`, 0..15; no meaning while not in use. -/
  id : CtxId
  /-- `prefix`, 64 bits; no meaning while not in use. -/
  pfx : Prefix64
deriving DecidableEq, Repr

/-- A free context slot after reset. R35 leaves id and prefix unspecified: 0 is a DESIGN CHOICE (log entry 2). -/
def CtxSlot.free : CtxSlot := { inUse := false, id := 0, pfx := 0 }

/-- A slot of the reassembly table (R26). -/
structure ReassSlot where
  /-- `valid`: the slot holds an entry, in state Collecting (R28). -/
  valid : Bool
  /-- `sender`: the sender's link-layer address. -/
  sender : LinkAddr
  /-- `tag`: the datagram tag. -/
  tag : Tag
  /-- `size`: the total datagram size of the fragment header. -/
  size : Size
  /-- `buf`: the accumulated datagram bytes. -/
  buf : ByteString
  /-- `rlen`: the running length, `len(buf)`. -/
  rlen : Size
  /-- `ttl`: sweeps left before the entry is discarded. -/
  ttl : BitVec 8
deriving DecidableEq, Repr

/-- A free reassembly slot after reset. R35 leaves every field but `valid` unspecified: these values are a DESIGN CHOICE
(log entry 2). -/
def ReassSlot.free : ReassSlot :=
  { valid := false, sender := .short 0 0, tag := 0, size := 0, buf := [], rlen := 0, ttl := 0 }

/-- The statistics counters, 32 bits each (R30). -/
structure Stats where
  rxUnknown : BitVec 32
  rxCorrupt : BitVec 32
  rxDupFrag1 : BitVec 32
  rxNoEntry : BitVec 32
  rxOffsetMismatch : BitVec 32
  rxNoResource : BitVec 32
  reassReplaced : BitVec 32
  reassComplete : BitVec 32
  reassTimeout : BitVec 32
  reassFlushed : BitVec 32
deriving DecidableEq, Repr

/-- Every counter 0 (R35). -/
def Stats.zero : Stats :=
  { rxUnknown := 0, rxCorrupt := 0, rxDupFrag1 := 0, rxNoEntry := 0, rxOffsetMismatch := 0, rxNoResource := 0,
    reassReplaced := 0, reassComplete := 0, reassTimeout := 0, reassFlushed := 0 }

/-- The names of the ten counters (R30). -/
inductive Counter where
  | rxUnknown
  | rxCorrupt
  | rxDupFrag1
  | rxNoEntry
  | rxOffsetMismatch
  | rxNoResource
  | reassReplaced
  | reassComplete
  | reassTimeout
  | reassFlushed
deriving DecidableEq, Repr

/-- The status codes (60_exceptions.md R180); code 7 is reserved and never produced, so it has no name. -/
inductive Status where
  | ok
  | outOfContexts
  | bufferTooSmall
  | datagramTooLarge
  | corruptPacket
  | linkTransmitFailure
  | illegalCommand
deriving DecidableEq, Repr

/-- The outcome codes of RECV (60_exceptions.md R181); codes 11 to 15 are never produced, so they have no name. -/
inductive RxOutcome where
  | deliveredIp
  | toDecoder
  | fragAccepted
  | reassToDecoder
  | reassDeliveredIp
  | dropUnknown
  | dropCorrupt
  | dropDup
  | dropNoEntry
  | dropOffset
  | dropNoResource
deriving DecidableEq, Repr

/-- The result values a command presents beside its status (R41). -/
inductive CmdResult where
  | none
  /-- LOOKUPCTX: the found bit and the prefix (R102). -/
  | context (found : Bool) (pfx : Prefix64)
  /-- ENCODE: the compressed datagram and the replaced-byte count (R120). -/
  | encoded (cdg : ByteString) (replaced : Nat)
  /-- FRAGMENT, and SEND once FRAGMENT runs: the number of frames accepted by the link (R148; log entries 9 and 20). -/
  | sent (n : Nat)
deriving DecidableEq, Repr

/-- What the status port presents when a command completes (R41). For a command other than RECV the outcome code has no
meaning (R181): it is absent (log entry 11). -/
structure Completion where
  status : Status
  outcome : Option RxOutcome
  result : CmdResult
deriving DecidableEq, Repr

/-- One thing presented at an output port. -/
inductive Output where
  /-- The status port (R41). -/
  | completion (c : Completion)
  /-- The link transmit port: the frame, its destination, and the verdict the link answered (R45). -/
  | link (dst : LinkAddr) (frame : ByteString) (verdict : Verdict)
  /-- The IP output port, `deliver_ip(P)` (R43). -/
  | ip (packet : ByteString)
  /-- The decoder output port, `to_decoder(D, sender, receiver)` with `len(D)` (R44). -/
  | decoder (datagram : ByteString) (sender receiver : LinkAddr) (len : Nat)
  /-- The statistics read port (R46). -/
  | stats (values : Stats)
deriving DecidableEq, Repr

/-- The state of one block (one network interface, R2). -/
structure State where
  /-- The configuration record; no command writes it and reset does not change it (R23). -/
  cfg : Configuration
  /-- The context table, slot 0 first; its length is N_CTX (R24). -/
  ctx : List CtxSlot
  /-- The reassembly table, slot 0 first; its length is N_REASS (R26). -/
  reass : List ReassSlot
  /-- `tag_ctr`, the next datagram tag the fragmenter allocates (R29). -/
  tagCtr : Tag
  /-- The statistics counters (R30). -/
  stat : Stats
  /-- The mark a refusal sets and nothing clears; not hardware state (R32). -/
  refused : Bool
  /-- What the environment presents, the next first (R40, R42, R46, R47). The model's own field (log entry 6). -/
  inputs : List PortInput
  /-- The link verdicts the environment has chosen, the next first (R45). The model's own field (log entry 4). -/
  verdicts : List Verdict
  /-- How many verdicts have been drawn from the free value. The model's own field (log entry 4). -/
  draws : Nat
  /-- What the output ports have presented, the oldest first (R55, R58). The model's own field (log entry 5). -/
  out : List Output
deriving DecidableEq, Repr

/-- The block has no fault: it has no traps (60_exceptions.md R187), and it "never halts, hangs or resets itself on an
error" (R184). No constructor, so nothing raises one. -/
inductive Fault where
deriving DecidableEq, Repr

/-- Why an instruction has no meaning in this model. A refused INPUT of the spec (00_scope.md R19) is not one of these: it
is a next state with the mark `State.refused` set (log entry 3). -/
inductive Refusal where
  /-- Raised by `exec` for an instruction whose meaning is not written yet; safe, since the machine stops. No arm of
  `exec` raises it. -/
  | notModelled (mnemonic : String)
deriving DecidableEq, Repr

/-- The machine right after reset (R35, 70_reset_and_hazards.md R200), with the configuration of 95_test_vectors.md (log
entry 1), the mark clear (log entry 3), nothing presented at any port and no verdict chosen (log entries 4 to 6). -/
def State.reset : State :=
  { cfg := Configuration.ofVectors
    ctx := List.replicate Configuration.ofVectors.nCtx CtxSlot.free
    reass := List.replicate Configuration.ofVectors.nReass ReassSlot.free
    tagCtr := 0
    stat := Stats.zero
    refused := false
    inputs := []
    verdicts := []
    draws := 0
    out := [] }

end Sys2Proof.Machine
end

