-- ==== Sys2Proof/Machine/Flags.lean ====
section
/-!
DEFINITION. The block has no flags or condition codes (10_state.md R22); what a command leaves to be read is its status,
its outcome and the statistics counters. This file gives the codes their numbers (60_exceptions.md R180, R181) and the
counters their increment (10_state.md R31).
-/

namespace Sys2Proof.Machine

/-- The 3-bit status code (R180). -/
def Status.code : Status → BitVec 3
  | .ok => 0
  | .outOfContexts => 1
  | .bufferTooSmall => 2
  | .datagramTooLarge => 3
  | .corruptPacket => 4
  | .linkTransmitFailure => 5
  | .illegalCommand => 6

/-- The 4-bit outcome code (R181). -/
def RxOutcome.code : RxOutcome → BitVec 4
  | .deliveredIp => 0
  | .toDecoder => 1
  | .fragAccepted => 2
  | .reassToDecoder => 3
  | .reassDeliveredIp => 4
  | .dropUnknown => 5
  | .dropCorrupt => 6
  | .dropDup => 7
  | .dropNoEntry => 8
  | .dropOffset => 9
  | .dropNoResource => 10

/-- The value of a counter. -/
def Stats.get (t : Stats) : Counter → BitVec 32
  | .rxUnknown => t.rxUnknown
  | .rxCorrupt => t.rxCorrupt
  | .rxDupFrag1 => t.rxDupFrag1
  | .rxNoEntry => t.rxNoEntry
  | .rxOffsetMismatch => t.rxOffsetMismatch
  | .rxNoResource => t.rxNoResource
  | .reassReplaced => t.reassReplaced
  | .reassComplete => t.reassComplete
  | .reassTimeout => t.reassTimeout
  | .reassFlushed => t.reassFlushed

/-- A counter incremented `n` times, modulo 2^32 (R31). -/
def Stats.add (t : Stats) (c : Counter) (n : Nat) : Stats :=
  match c with
  | .rxUnknown => { t with rxUnknown := t.rxUnknown + BitVec.ofNat 32 n }
  | .rxCorrupt => { t with rxCorrupt := t.rxCorrupt + BitVec.ofNat 32 n }
  | .rxDupFrag1 => { t with rxDupFrag1 := t.rxDupFrag1 + BitVec.ofNat 32 n }
  | .rxNoEntry => { t with rxNoEntry := t.rxNoEntry + BitVec.ofNat 32 n }
  | .rxOffsetMismatch => { t with rxOffsetMismatch := t.rxOffsetMismatch + BitVec.ofNat 32 n }
  | .rxNoResource => { t with rxNoResource := t.rxNoResource + BitVec.ofNat 32 n }
  | .reassReplaced => { t with reassReplaced := t.reassReplaced + BitVec.ofNat 32 n }
  | .reassComplete => { t with reassComplete := t.reassComplete + BitVec.ofNat 32 n }
  | .reassTimeout => { t with reassTimeout := t.reassTimeout + BitVec.ofNat 32 n }
  | .reassFlushed => { t with reassFlushed := t.reassFlushed + BitVec.ofNat 32 n }

end Sys2Proof.Machine
end

