-- ==== Sys2Proof/Machine/Bytes.lean ====
section
/-!
DEFINITION. Byte-string access, big-endian integers and rounding (00_scope.md R8, R9, R11, R12). Everything is big-endian
(20_memory.md R54) and nothing is aligned (R56).
-/

namespace Sys2Proof.Machine

/-- `S[i]`; rules that read it have checked the length first, so the default 0 is never the answer a rule uses (R8). -/
def byteAt (S : ByteString) (i : Nat) : Byte := S.getD i 0

/-- `S[i..j)` (R8). -/
def slice (S : ByteString) (i j : Nat) : ByteString := (S.drop i).take (j - i)

/-- `be16(S, i) = S[i]·256 + S[i+1]` (R9). -/
def be16 (S : ByteString) (i : Nat) : BitVec 16 := byteAt S i ++ byteAt S (i + 1)

/-- `be_bytes(v, 2)` (R9). -/
def beBytes2 (v : BitVec 16) : ByteString := [v.extractLsb' 8 8, v.extractLsb' 0 8]

/-- The big-endian value of a byte string. -/
def beNat (S : ByteString) : Nat := S.foldl (fun a b => 256 * a + b.toNat) 0

/-- The prefix half `A[0..8)` of an address as a 64-bit value (R24: compared with bytes 0..7 of an IPv6 address). -/
def prefixOf (A : ByteString) : Prefix64 := BitVec.ofNat 64 (beNat (slice A 0 8))

/-- `MemRead(S, off, n)`: fails past the end of the string (R11). -/
def memRead (S : ByteString) (off n : Nat) : Option ByteString :=
  if off + n ≤ S.length then some (slice S off (off + n)) else none

/-- `floor8(x) = (x // 8) · 8` (R12). -/
def floor8 (x : Nat) : Nat := x / 8 * 8

end Sys2Proof.Machine
end

