-- ==== Sys2Proof/Decode.lean ====
section
/-!
DEFINITION. Decoding and encoding (30_encoding.md): the frame classes (R65, R66), the fragment headers (R85 to R87), the
command codes (R90, R94) with their operand forms (R91), the pseudo-command (R93) and the receive path (R42). `decode` is
total and rejects by name; `encode` is written from the same tables. `decodeTableWord` reads a word numbered as
opcode_table.json numbers it.
-/

namespace Sys2Proof

open Sys2Proof.Machine (byteAt be16 beBytes2 memRead slice)

/-- The bytes of a link-layer address (R7). -/
def LinkAddr.toBytes : LinkAddr → ByteString
  | .short b0 b1 => [b0, b1]
  | .mac b0 b1 b2 b3 b4 b5 => [b0, b1, b2, b3, b4, b5]
  | .eui64 b0 b1 b2 b3 b4 b5 b6 b7 => [b0, b1, b2, b3, b4, b5, b6, b7]

/-- The address a port reads from its bytes; an address of any other length is refused at the port (R7). -/
def LinkAddr.ofBytes : ByteString → Option LinkAddr
  | [b0, b1] => some (.short b0 b1)
  | [b0, b1, b2, b3, b4, b5] => some (.mac b0 b1 b2 b3 b4 b5)
  | [b0, b1, b2, b3, b4, b5, b6, b7] => some (.eui64 b0 b1 b2 b3 b4 b5 b6 b7)
  | _ => none

/-- The class a dispatch byte selects: the match and mask columns of R66 (and of the RX rows of opcode_table.json). -/
def classOfByte (d : Byte) : FrameClass :=
  if d &&& 0xFF#8 = 0x41#8 then .uncomp
  else if d &&& 0xE0#8 = 0x60#8 then .iphc
  else if d &&& 0xF8#8 = 0xC0#8 then .frag1
  else if d &&& 0xF8#8 = 0xE0#8 then .fragN
  else .unknown

/-- The class of a frame: a function of byte 0 alone; an empty frame is UNKNOWN (R66). -/
def frameClass : ByteString → FrameClass
  | [] => .unknown
  | d :: _ => classOfByte d

/-- The first two bytes of a fragment header: a dispatch byte with size bits 10..8, then size bits 7..0 (R85, R86). -/
def sizeBytes (dispatch : Byte) (size : Size) : ByteString :=
  [dispatch ||| (size.extractLsb' 8 3).setWidth 8, size.extractLsb' 0 8]

/-- A FRAG1 frame: the 4-byte header of R85, then the data. -/
def frag1Frame (size : Size) (tag : Tag) (data : ByteString) : ByteString :=
  sizeBytes 0xC0 size ++ beBytes2 tag ++ data

/-- A FRAGN frame: the 5-byte header of R86, then the data; the offset is given in units of 8 bytes. -/
def fragNFrame (size : Size) (tag : Tag) (off8 : Byte) (data : ByteString) : ByteString :=
  sizeBytes 0xE0 size ++ beBytes2 tag ++ [off8] ++ data

/-- `size = ((F[0] & 0x07) << 8) | F[1]` (R87). -/
def headerSize (F : ByteString) : Size := (byteAt F 0).extractLsb' 0 3 ++ byteAt F 1

/-- `tag = be16(F, 2)` (R87). -/
def headerTag (F : ByteString) : Tag := be16 F 2

/-- Size, tag and data of a FRAG1 frame (R85, R87); none when its 4-byte header is truncated (R160). -/
def parseFrag1 (F : ByteString) : Option (Size × Tag × ByteString) :=
  (memRead F 0 4).map fun h => (headerSize h, headerTag h, F.drop 4)

/-- Size, tag, offset byte and data of a FRAGN frame (R86, R87); none when its 5-byte header is truncated (R163). -/
def parseFragN (F : ByteString) : Option (Size × Tag × Byte × ByteString) :=
  (memRead F 0 5).map fun h => (headerSize h, headerTag h, byteAt h 4, F.drop 5)

/-- Decoding with one link-layer address operand (R7, R91). -/
def withAddr (a : ByteString) (f : LinkAddr → Instr) : Decoded :=
  match LinkAddr.ofBytes a with
  | some l => .instr (f l)
  | none => .rejected .badAddressLength

/-- Decoding with two link-layer address operands (R7, R91). -/
def withAddrs (a b : ByteString) (f : LinkAddr → LinkAddr → Instr) : Decoded :=
  match LinkAddr.ofBytes a, LinkAddr.ofBytes b with
  | some la, some lb => .instr (f la lb)
  | _, _ => .rejected .badAddressLength

/-- The command codes of R90, every one of the sixteen; 0x0 and 0x9..0xF are reserved (R94). -/
def decodeCommand (op : BitVec 4) (x : Operands) : Decoded :=
  match op.toNat with
  | 0x1 => .instr (.setctx x.id x.pfx)
  | 0x2 => .instr (.rmctx x.id)
  | 0x3 => .instr (.lookupctx x.id)
  | 0x4 => withAddrs x.addrA x.addrB fun s d => .encode x.str s d
  | 0x5 => withAddr x.addrA fun d => .fragment x.str d
  | 0x6 => withAddrs x.addrA x.addrB fun s r => .recv x.str s r
  | 0x7 => .instr .tick
  | 0x8 => .instr .flush
  | 0x9 => .instr .reservedCmd9
  | 0xA => .instr .reservedCmdA
  | 0xB => .instr .reservedCmdB
  | 0xC => .instr .reservedCmdC
  | 0xD => .instr .reservedCmdD
  | 0xE => .instr .reservedCmdE
  | 0xF => .instr .reservedCmdF
  | _ => .instr .reservedCmd0

/-- The RX row of a class (R155): the dispatch a received frame is routed by. -/
def classInstr (c : FrameClass) (frame : ByteString) (s r : LinkAddr) : Instr :=
  match c with
  | .uncomp => .rxUncomp frame s r
  | .iphc => .rxIphc frame s r
  | .frag1 => .rxFrag1 frame s r
  | .fragN => .rxFragN frame s r
  | .unknown => .rxUnknown frame s r

/-- The TX row of a fragment frame on its way to the link (R85, R86). -/
def decodeTransmit (frame dst : ByteString) : Decoded :=
  match frameClass frame with
  | .frag1 =>
    match parseFrag1 frame with
    | some (size, tag, data) => withAddr dst fun l => .txFrag1 size tag data l
    | none => .rejected .notAFragmentFrame
  | .fragN =>
    match parseFragN frame with
    | some (size, tag, off8, data) => withAddr dst fun l => .txFragN size tag off8 data l
    | none => .rejected .notAFragmentFrame
  | _ => .rejected .notAFragmentFrame

/-- Decoding, total: what a presented word means, or why it is rejected. -/
def decode : PortWord → Decoded
  | .command op x => decodeCommand op x
  | .send pkt s d => withAddrs s d fun ls ld => .send pkt ls ld
  | .receive frame s r => withAddrs s r fun ls lr => classInstr (frameClass frame) frame ls lr
  | .transmit frame d => decodeTransmit frame d

/-- The word of an instruction: the command code and operands of R90, the pseudo-command of R93, the received frame of
R42, or the fragment frame of R85 and R86. -/
def encode : Instr → PortWord
  | .setctx id pfx => .command 0x1 { id := id, pfx := pfx }
  | .rmctx id => .command 0x2 { id := id }
  | .lookupctx id => .command 0x3 { id := id }
  | .encode pkt s d => .command 0x4 { str := pkt, addrA := s.toBytes, addrB := d.toBytes }
  | .fragment cdg d => .command 0x5 { str := cdg, addrA := d.toBytes }
  | .recv frame s r => .command 0x6 { str := frame, addrA := s.toBytes, addrB := r.toBytes }
  | .tick => .command 0x7 {}
  | .flush => .command 0x8 {}
  | .reservedCmd0 => .command 0x0 {}
  | .reservedCmd9 => .command 0x9 {}
  | .reservedCmdA => .command 0xA {}
  | .reservedCmdB => .command 0xB {}
  | .reservedCmdC => .command 0xC {}
  | .reservedCmdD => .command 0xD {}
  | .reservedCmdE => .command 0xE {}
  | .reservedCmdF => .command 0xF {}
  | .send pkt s d => .send pkt s.toBytes d.toBytes
  | .rxUncomp frame s r => .receive frame s.toBytes r.toBytes
  | .rxIphc frame s r => .receive frame s.toBytes r.toBytes
  | .rxFrag1 frame s r => .receive frame s.toBytes r.toBytes
  | .rxFragN frame s r => .receive frame s.toBytes r.toBytes
  | .rxUnknown frame s r => .receive frame s.toBytes r.toBytes
  | .txFrag1 size tag data d => .transmit (frag1Frame size tag data) d.toBytes
  | .txFragN size tag off8 data d => .transmit (fragNFrame size tag off8 data) d.toBytes

/-- Byte `i` of a number whose least significant byte is byte 0. -/
def tableByte (w i : Nat) : Byte := BitVec.ofNat 8 (w / 256 ^ i)

/-- The `n` bytes of a number from byte `i` on, the least significant first. -/
def tableBytes (w : Nat) : Nat → Nat → ByteString
  | _, 0 => []
  | i, n + 1 => tableByte w i :: tableBytes w (i + 1) n

/-- The word a row's bits stand for, every operand zero: a first byte below 0x10 is a command code (its bits 3..0, R90),
with a zero link-layer address of 2 bytes, the shortest there is (R7); any other first byte is the dispatch byte of a
received frame (R66), with zero bytes up to the longest header, 5 bytes (R86). DESIGN CHOICE (log entry 10). -/
def tableWord (nbits w : Nat) : PortWord :=
  let v := w % 2 ^ nbits
  let zero : ByteString := [0, 0]
  if v < 0x10 then .command (BitVec.ofNat 4 v) { addrA := zero, addrB := zero }
  else .receive (tableBytes v 0 (max 5 ((nbits + 7) / 8))) zero zero

/-- The instruction the decoder reads from a table word. -/
def decodeTableWord (nbits w : Nat) : Option Instr :=
  match decode (tableWord nbits w) with
  | .instr i => some i
  | .rejected _ => none

end Sys2Proof
end

