-- ==== Sys2Proof/Machine/Operands.lean ====
section
/-!
DEFINITION. What a command may be given: the configuration's constraints (00_scope.md R6, 43_fragmenter.md R143), the
fields of an IPv6 packet with an optional UDP header (R14, R15), the precondition of ENCODE (42_iphc_encoder.md R121) and
that of FRAGMENT (43_fragmenter.md R140), and what makes a frame one of the two transmit rows (R145, R146).
-/

namespace Sys2Proof

/-- The frame budget `B = LINK_MTU − LL_OVERHEAD` (R6). -/
def Configuration.budget (c : Configuration) : Nat := c.linkMtu - c.llOverhead

/-- The constraints of R6, `B ≥ 13` among them (R143); a configuration that violates one has no model. -/
def Configuration.admitted (c : Configuration) : Bool :=
  decide (1 ≤ c.nCtx ∧ c.nCtx ≤ 16 ∧ 1 ≤ c.nReass ∧ c.llOverhead < c.linkMtu ∧ 13 ≤ c.budget ∧
    1 ≤ c.reassTimeout ∧ c.reassTimeout ≤ 255)

end Sys2Proof

namespace Sys2Proof.Machine

/-- `IPV6_HDR_LEN` (R15). -/
def ipv6HdrLen : Nat := 40

/-- `UDP_HDR_LEN` (R15). -/
def udpHdrLen : Nat := 8

/-- `NH_UDP` (R15). -/
def nhUdp : Byte := 17

/-- The version, byte 0 bits 7..4 (R14). -/
def pktVersion (S : ByteString) : BitVec 4 := (byteAt S 0).extractLsb' 4 4

/-- `TC = (S[0][3:0] << 4) | S[1][7:4]` (R14). -/
def pktTC (S : ByteString) : BitVec 8 := (byteAt S 0).extractLsb' 0 4 ++ (byteAt S 1).extractLsb' 4 4

/-- `FL = (S[1][3:0] << 16) | be16(S, 2)` (R14). -/
def pktFL (S : ByteString) : BitVec 20 := (byteAt S 1).extractLsb' 0 4 ++ be16 S 2

/-- The payload length (R14). -/
def pktPayloadLen (S : ByteString) : BitVec 16 := be16 S 4

/-- The next header (R14). -/
def pktNH (S : ByteString) : Byte := byteAt S 6

/-- The hop limit (R14). -/
def pktHL (S : ByteString) : Byte := byteAt S 7

/-- The source address `S[8..24)` (R14). -/
def pktSA (S : ByteString) : ByteString := slice S 8 24

/-- The destination address `S[24..40)` (R14). -/
def pktDA (S : ByteString) : ByteString := slice S 24 40

/-- The UDP source port (R14). -/
def pktSrcPort (S : ByteString) : BitVec 16 := be16 S 40

/-- The UDP destination port (R14). -/
def pktDstPort (S : ByteString) : BitVec 16 := be16 S 42

/-- The UDP length (R14). -/
def pktUdpLen (S : ByteString) : BitVec 16 := be16 S 44

/-- The UDP checksum (R14). -/
def pktChecksum (S : ByteString) : BitVec 16 := be16 S 46

/-- The precondition of ENCODE on its packet (R121). -/
def packetOk (S : ByteString) : Bool :=
  decide (40 ≤ S.length ∧ pktVersion S = 6#4 ∧ (pktPayloadLen S).toNat = S.length - 40 ∧
    (pktNH S = nhUdp → 48 ≤ S.length ∧ (pktUdpLen S).toNat = S.length - 40))

/-- The precondition of FRAGMENT: the datagram is not empty (R140). -/
def datagramOk (cdg : ByteString) : Bool := decide (1 ≤ cdg.length)

/-- Data bytes of a first fragment, `n1 = floor8(B − 4)` (R145). -/
def firstLen (B : Nat) : Nat := floor8 (B - 4)

/-- Data bytes of the continuation at offset `off` of a datagram of `Lc` bytes: the rest if it fits, else
`kN = floor8(B − 5)` (R146). -/
def contLen (B Lc off : Nat) : Nat := if Lc - off ≤ B - 5 then Lc - off else floor8 (B - 5)

/-- The frame is a first fragment R145 sends: the datagram needs fragments and the data are `floor8(B − 4)` bytes. -/
def txFrag1Ok (B : Nat) (size : Size) (data : ByteString) : Bool :=
  decide (B < size.toNat ∧ data.length = firstLen B)

/-- The frame is a continuation R146 sends: past the first fragment, before the end, with that offset's data length. -/
def txFragNOk (B : Nat) (size : Size) (off8 : Byte) (data : ByteString) : Bool :=
  decide (B < size.toNat ∧ firstLen B ≤ off8.toNat * 8 ∧ off8.toNat * 8 < size.toNat ∧
    data.length = contLen B size.toNat (off8.toNat * 8))

end Sys2Proof.Machine
end

