-- ==== Sys2Proof/Machine/Ops.lean ====
section
/-!
DEFINITION. The named operations over the state: single writes, the ports (10_state.md R41 to R46), refusal (00_scope.md
R19), the search of a table for its lowest matching slot, and reset (70_reset_and_hazards.md R200). The block takes no
exception and returns from none (60_exceptions.md R187, R188): an error is the status a command completes with.
-/

namespace Sys2Proof.Machine

/-- Writes context slot k (R24). -/
def State.writeCtx (s : State) (k : Nat) (c : CtxSlot) : State := { s with ctx := s.ctx.set k c }

/-- Writes reassembly slot k (R26). -/
def State.writeReass (s : State) (k : Nat) (e : ReassSlot) : State := { s with reass := s.reass.set k e }

/-- Writes the whole context table. -/
def State.setCtx (s : State) (l : List CtxSlot) : State := { s with ctx := l }

/-- Writes the whole reassembly table. -/
def State.setReass (s : State) (l : List ReassSlot) : State := { s with reass := l }

/-- Writes the tag counter (R29). -/
def State.setTag (s : State) (t : Tag) : State := { s with tagCtr := t }

/-- Increments a counter `n` times (R31). -/
def State.countN (s : State) (c : Counter) (n : Nat) : State := { s with stat := s.stat.add c n }

/-- `stat.c++` (R31). -/
def State.count (s : State) (c : Counter) : State := s.countN c 1

/-- Presents something at an output port, after everything presented before (R58). -/
def State.present (s : State) (o : Output) : State := { s with out := s.out ++ [o] }

/-- A command completes: the status port presents its status, its outcome if it is a RECV, and its results (R41). -/
def State.complete (s : State) (st : Status) (oc : Option RxOutcome) (r : CmdResult) : State :=
  s.present (.completion { status := st, outcome := oc, result := r })

/-- `deliver_ip(P)` (R43). -/
def State.deliverIp (s : State) (P : ByteString) : State := s.present (.ip P)

/-- `to_decoder(D, sender, receiver)`, with `len(D)` (R44). -/
def State.toDecoder (s : State) (D : ByteString) (sender receiver : LinkAddr) : State :=
  s.present (.decoder D sender receiver D.length)

/-- A refusal sets the mark; it writes no state and gives no output (R19, R32). -/
def State.refuse (s : State) : State := { s with refused := true }

/-- A command (no reset and no statistics read, log entry 21) runs if the configuration is one the spec admits (R6, R203) and the input meets the command's precondition;
otherwise the model refuses it (R19). -/
def State.accept (s : State) (ok : Bool) (t : State) : Host.Outcome State Fault Refusal :=
  .next (if s.cfg.admitted && ok then t else s.refuse)

/-- The verdict of the next frame: the environment's next choice, or the free value where it has put none (R45). -/
def State.nextVerdict (s : State) : Verdict :=
  match s.verdicts with
  | v :: _ => v
  | [] => Config.linkVerdict s.draws

/-- The state after a verdict is drawn. -/
def State.dropVerdict (s : State) : State :=
  match s.verdicts with
  | _ :: vs => { s with verdicts := vs }
  | [] => { s with draws := s.draws + 1 }

/-- `emit_frame(F)`: the frame goes to the link with its destination, and the link's verdict comes back (R45). -/
def State.emitFrame (s : State) (dst : LinkAddr) (F : ByteString) : State :=
  s.dropVerdict.present (.link dst F s.nextVerdict)

/-- Frames handed to the link in order; at the first verdict `fail` the rest is not sent (R147). Answers the state, the
number of frames accepted, and whether all were. -/
def emitFrames (dst : LinkAddr) : List ByteString → State → State × Nat × Bool
  | [], s => (s, 0, true)
  | F :: Fs, s =>
    match s.nextVerdict with
    | .ok => let r := emitFrames dst Fs (s.emitFrame dst F); (r.1, r.2.1 + 1, r.2.2)
    | .fail => (s.emitFrame dst F, 0, false)

/-- The lowest slot a test holds of, with its index (the ascending searches of R100 to R103, R161 and R174). -/
def findSlot {α : Type} (p : α → Bool) : List α → Option (Nat × α)
  | [] => none
  | a :: l => if p a then some (0, a) else (findSlot p l).map fun r => (r.1 + 1, r.2)

/-- Reset (R35, R200, R201): both tables empty, the tag counter and every counter 0. The configuration and the mark are
unchanged, nothing is emitted, and what stands at the ports stays (log entry 17). -/
def State.doReset (s : State) : State :=
  { s with
    ctx := List.replicate s.cfg.nCtx CtxSlot.free
    reass := List.replicate s.cfg.nReass ReassSlot.free
    tagCtr := 0
    stat := Stats.zero }

end Sys2Proof.Machine
end

