-- ==== Sys2Proof/Machine/AddressMode.lean ====
section
/-!
DEFINITION. The address mode selector (41_address_mode.md): pure functions the encoder calls, R110 to R117. Addresses are
16-byte strings and interface identifiers 8-byte strings.
-/

namespace Sys2Proof.Machine

/-- `derived_iid(L)` (R110). -/
def derivedIid : LinkAddr → ByteString
  | .short b0 b1 => [0x00, 0x00, 0x00, 0xFF, 0xFE, 0x00, b0, b1]
  | .mac b0 b1 b2 b3 b4 b5 => [b0 ^^^ 0x02, b1, b2, 0xFF, 0xFE, b3, b4, b5]
  | .eui64 b0 b1 b2 b3 b4 b5 b6 b7 => [b0 ^^^ 0x02, b1, b2, b3, b4, b5, b6, b7]

/-- `is_short_iid(I)` (R111). -/
def isShortIid (I : ByteString) : Bool := slice I 0 6 == [0x00, 0x00, 0x00, 0xFF, 0xFE, 0x00]

/-- `ucast_mode(A, L)` (R112). -/
def ucastMode (A : ByteString) (L : LinkAddr) : BitVec 2 :=
  let iid := slice A 8 16
  if iid == derivedIid L then 3
  else if isShortIid iid then 2
  else 1

/-- Every byte of the string is zero. -/
def allZero (S : ByteString) : Bool := S.all (· == 0)

/-- `mcast_mode(M)` (R113). -/
def mcastMode (M : ByteString) : BitVec 2 :=
  if byteAt M 1 == 0x02 && allZero (slice M 2 15) then 3
  else if allZero (slice M 2 13) then 2
  else if allZero (slice M 2 11) then 1
  else 0

/-- `ucast_inline(A, mode)` for modes 1, 2 and 3 (R114); mode 0 is the full address (R76), which the selector does not
produce. -/
def ucastInline (A : ByteString) (mode : BitVec 2) : ByteString :=
  match mode.toNat with
  | 3 => []
  | 2 => slice A 14 16
  | 1 => slice A 8 16
  | _ => slice A 0 16

/-- `mcast_inline(M, mode)` (R115). -/
def mcastInline (M : ByteString) (mode : BitVec 2) : ByteString :=
  match mode.toNat with
  | 3 => [byteAt M 15]
  | 2 => [byteAt M 1] ++ slice M 13 16
  | 1 => [byteAt M 1] ++ slice M 11 16
  | _ => slice M 0 16

/-- `is_link_local(A)` (R116). -/
def isLinkLocal (A : ByteString) : Bool := slice A 0 8 == [0xFE, 0x80, 0, 0, 0, 0, 0, 0]

/-- `is_multicast(A)` (R117). -/
def isMulticast (A : ByteString) : Bool := byteAt A 0 == 0xFF

end Sys2Proof.Machine
end

