-- ==== Sys2Proof/Machine/Context.lean ====
section
/-!
DEFINITION. The context table commands SETCTX, RMCTX and LOOKUPCTX (40_context_table.md R100 to R102) and the encoder's
`lookup_by_prefix` (R103).
-/

namespace Sys2Proof.Machine

/-- `ctx[k].in_use == 1 and ctx[k].id == id`. -/
def CtxSlot.holds (id : CtxId) (c : CtxSlot) : Bool := c.inUse && c.id == id

/-- SETCTX (R100): overwrite in place, else the lowest free slot, else `OutOfContexts` with no state written. -/
def setContext (id : CtxId) (pfx : Prefix64) (s : State) : State :=
  match findSlot (CtxSlot.holds id) s.ctx with
  | some (k, c) => (s.writeCtx k { c with pfx := pfx }).complete .ok none .none
  | none =>
    match findSlot (fun c => !c.inUse) s.ctx with
    | some (k, _) => (s.writeCtx k { inUse := true, id := id, pfx := pfx }).complete .ok none .none
    | none => s.complete .outOfContexts none .none

/-- RMCTX (R101): the slot that holds the id becomes free; nothing happens if there is none (log entry 15). -/
def removeContext (id : CtxId) (s : State) : State :=
  (s.setCtx (s.ctx.map fun c => if c.holds id then { c with inUse := false } else c)).complete .ok none .none

/-- LOOKUPCTX (R102): the found bit and the prefix, which is 0 on a miss. -/
def lookupContext (id : CtxId) (s : State) : State :=
  match findSlot (CtxSlot.holds id) s.ctx with
  | some (_, c) => s.complete .ok none (.context true c.pfx)
  | none => s.complete .ok none (.context false 0)

/-- `lookup_by_prefix(A)` (R103): the id of the lowest in-use slot whose prefix is `A[0..8)`. -/
def lookupByPrefix (ctx : List CtxSlot) (A : ByteString) : Option CtxId :=
  (findSlot (fun c => c.inUse && c.pfx == prefixOf A) ctx).map fun r => r.2.id

/-- SETCTX id, prefix. -/
def execSetctx (id : CtxId) (pfx : Prefix64) (s : State) : Host.Outcome State Fault Refusal :=
  s.accept true (setContext id pfx s)

/-- RMCTX id. -/
def execRmctx (id : CtxId) (s : State) : Host.Outcome State Fault Refusal :=
  s.accept true (removeContext id s)

/-- LOOKUPCTX id. -/
def execLookupctx (id : CtxId) (s : State) : Host.Outcome State Fault Refusal :=
  s.accept true (lookupContext id s)

end Sys2Proof.Machine
end

