-- ==== Sys2Proof/Machine/Encoder.lean ====
section
/-!
DEFINITION. The IPHC encoder, ENCODE (42_iphc_encoder.md R120 to R135), with the field layouts of 30_encoding.md R68 to
R80 and the reading back of the header length (R82). Layouts the spec supplies from general knowledge: log entry 14.
-/

namespace Sys2Proof.Machine

/-- What address compression answers (R124, R125): the multicast bit, SAC or DAC, the mode, the context used, and the
inline bytes. -/
structure AddrPath where
  m : BitVec 1
  ac : BitVec 1
  mode : BitVec 2
  ctxId : Option CtxId
  bytes : ByteString
deriving DecidableEq, Repr

/-- The unicast path both addresses share (R124, the last lines of R125): link-local first, then a context, else 16 bytes
inline with mode 0. -/
def ucastPath (ctx : List CtxSlot) (A : ByteString) (L : LinkAddr) : AddrPath :=
  if isLinkLocal A then
    { m := 0, ac := 0, mode := ucastMode A L, ctxId := none, bytes := ucastInline A (ucastMode A L) }
  else
    match lookupByPrefix ctx A with
    | some id => { m := 0, ac := 1, mode := ucastMode A L, ctxId := some id, bytes := ucastInline A (ucastMode A L) }
    | none => { m := 0, ac := 0, mode := 0, ctxId := none, bytes := slice A 0 16 }

/-- `src_path(SA, src_ll)` (R124): no special case for a multicast or unspecified source. -/
def srcPath (ctx : List CtxSlot) (SA : ByteString) (srcLl : LinkAddr) : AddrPath := ucastPath ctx SA srcLl

/-- `dst_path(DA, dst_ll)` (R125): a multicast destination never uses a context. -/
def dstPath (ctx : List CtxSlot) (DA : ByteString) (dstLl : LinkAddr) : AddrPath :=
  if isMulticast DA then
    { m := 1, ac := 0, mode := mcastMode DA, ctxId := none, bytes := mcastInline DA (mcastMode DA) }
  else ucastPath ctx DA dstLl

/-- `ctx_ext(s_ctx, d_ctx)` (R126, R72): SCI in bits 7..4, DCI in bits 3..0, 0 for an address without a context. -/
def ctxExt (sCtx dCtx : Option CtxId) : ByteString :=
  match sCtx, dCtx with
  | none, none => []
  | some i, none => [i ++ 0#4]
  | none, some j => [0#4 ++ j]
  | some i, some j => [i ++ j]

/-- `tf_enc(TC, FL)` (R127, R73), with `DSCP = TC >> 2` and `ECN = TC & 3`. -/
def tfEnc (TC : BitVec 8) (FL : BitVec 20) : BitVec 2 × ByteString :=
  let dscp : BitVec 6 := TC.extractLsb' 2 6
  let ecn : BitVec 2 := TC.extractLsb' 0 2
  let fl19_16 : BitVec 4 := FL.extractLsb' 16 4
  let fl15_8 : Byte := FL.extractLsb' 8 8
  let fl7_0 : Byte := FL.extractLsb' 0 8
  if FL = 0 ∧ TC = 0 then (3, [])
  else if FL = 0 then (2, [ecn ++ dscp])
  else if dscp = 0 then (1, [ecn ++ 0#2 ++ fl19_16, fl15_8, fl7_0])
  else (0, [ecn ++ dscp, 0#4 ++ fl19_16, fl15_8, fl7_0])

/-- `nh_enc(NHv)` (R128, R74). -/
def nhEnc (NHv : Byte) : BitVec 1 × ByteString := if NHv = nhUdp then (1, []) else (0, [NHv])

/-- `hlim_enc(HL)` (R129, R75). -/
def hlimEnc (HL : Byte) : BitVec 2 × ByteString :=
  if HL = 1 then (1, [])
  else if HL = 64 then (2, [])
  else if HL = 255 then (3, [])
  else (0, [HL])

/-- `inr(p) = (p & 0xFFF0) == 0xF0B0` (R79, R131). -/
def portInRange (p : BitVec 16) : Bool := (p &&& 0xFFF0#16) == 0xF0B0#16

/-- The port mode P and the port bytes (R131, R79). -/
def portEnc (sp dp : BitVec 16) : BitVec 2 × ByteString :=
  if portInRange sp && portInRange dp then (3, [sp.extractLsb' 0 4 ++ dp.extractLsb' 0 4])
  else if portInRange sp then (2, [sp.extractLsb' 0 8] ++ beBytes2 dp)
  else if portInRange dp then (1, beBytes2 sp ++ [dp.extractLsb' 0 8])
  else (0, beBytes2 sp ++ beBytes2 dp)

/-- `udp_enc(pkt)` (R131, R78, R80): the NHC byte `0xF0 | P` with C = 0, the ports, the checksum unchanged. -/
def udpEnc (pkt : ByteString) : ByteString :=
  let pe := portEnc (pktSrcPort pkt) (pktDstPort pkt)
  [0xF0#8 ||| pe.1.setWidth 8] ++ pe.2 ++ beBytes2 (pktChecksum pkt)

/-- The header bytes ENCODE replaces (R134). -/
def replacedLen (pkt : ByteString) : Nat := ipv6HdrLen + (if pktNH pkt = nhUdp then udpHdrLen else 0)

/-- IPHC byte 0 (R69, R71): `011`, TF, NH, HLIM. -/
def iphcByte0 (tf : BitVec 2) (nh : BitVec 1) (hl : BitVec 2) : Byte :=
  0x60#8 ||| (tf.setWidth 8 <<< 3) ||| (nh.setWidth 8 <<< 2) ||| hl.setWidth 8

/-- IPHC byte 1 (R70, R71, R130): CID, SAC, SAM, M, DAC, DAM. -/
def iphcByte1 (cid : Bool) (sp dp : AddrPath) : Byte :=
  (if cid then 0x80#8 else 0x00#8) ||| (sp.ac.setWidth 8 <<< 6) ||| (sp.mode.setWidth 8 <<< 4) |||
    (dp.m.setWidth 8 <<< 3) ||| (dp.ac.setWidth 8 <<< 2) ||| dp.mode.setWidth 8

/-- The compressed header H (R68, R123). -/
def compressHeader (ctx : List CtxSlot) (pkt : ByteString) (srcLl dstLl : LinkAddr) : ByteString :=
  let sp := srcPath ctx (pktSA pkt) srcLl
  let dp := dstPath ctx (pktDA pkt) dstLl
  let ext := ctxExt sp.ctxId dp.ctxId
  let tf := tfEnc (pktTC pkt) (pktFL pkt)
  let nh := nhEnc (pktNH pkt)
  let hl := hlimEnc (pktHL pkt)
  let udp := if pktNH pkt = nhUdp then udpEnc pkt else []
  [iphcByte0 tf.1 nh.1 hl.1, iphcByte1 (ext != []) sp dp] ++ ext ++ tf.2 ++ nh.2 ++ hl.2 ++ sp.bytes ++ dp.bytes ++ udp

/-- The compressed datagram `cdg` (R123): the compressed header, then the payload unmodified (R133). -/
def compress (ctx : List CtxSlot) (pkt : ByteString) (srcLl dstLl : LinkAddr) : ByteString :=
  compressHeader ctx pkt srcLl dstLl ++ pkt.drop (replacedLen pkt)

/-- ENCODE (R122, R123): the capacity check against the whole packet, then the compressed datagram and the count. -/
def encodePacket (pkt : ByteString) (srcLl dstLl : LinkAddr) (s : State) : State :=
  if s.cfg.outCap < pkt.length then s.complete .bufferTooSmall none .none
  else s.complete .ok none (.encoded (compress s.ctx pkt srcLl dstLl) (replacedLen pkt))

/-- ENCODE pkt, src_ll, dst_ll (R120), refused outside the precondition (R121). -/
def execEncode (pkt : ByteString) (srcLl dstLl : LinkAddr) (s : State) : Host.Outcome State Fault Refusal :=
  s.accept (packetOk pkt) (encodePacket pkt srcLl dstLl s)

/-- `tf_len` of R82. -/
def tfLen (tf : BitVec 2) : Nat :=
  match tf.toNat with
  | 0 => 4
  | 1 => 3
  | 2 => 1
  | _ => 0

/-- `sa_len` of R82, and `da_len` for M = 0, by the mode (R76); the spec gives no length to AC = 1 with mode 00, which the
block never emits (R83), and the length of AC = 0 is used there: DESIGN CHOICE (log entry 22). -/
def ucastLen (mode : BitVec 2) : Nat :=
  match mode.toNat with
  | 0 => 16
  | 1 => 8
  | 2 => 2
  | _ => 0

/-- `da_len` of R82 for M = 1 (R77, whose table has DAC = 0). The spec gives no length to M = 1 with DAC = 1, which the block
never emits (R83); `iphcBaseLength` uses these lengths there too. DESIGN CHOICE (log entry 22). -/
def mcastLen (mode : BitVec 2) : Nat :=
  match mode.toNat with
  | 0 => 16
  | 1 => 6
  | 2 => 4
  | _ => 1

/-- `port_len` of R82. -/
def portLen (p : BitVec 2) : Nat :=
  match p.toNat with
  | 0 => 4
  | 3 => 1
  | _ => 3

/-- `Lh` of R82 before the compressed UDP header: told from bytes 0 and 1 of the datagram alone.
SAC and DAC are not read: what that settles for the bytes of R83 is log entry 22. -/
def iphcBaseLength (D : ByteString) : Nat :=
  let b0 := byteAt D 0
  let b1 := byteAt D 1
  2 + (b1.extractLsb' 7 1).toNat + tfLen (b0.extractLsb' 3 2) + (1 - (b0.extractLsb' 2 1).toNat) +
    (if b0.extractLsb' 0 2 = 0#2 then 1 else 0) + ucastLen (b1.extractLsb' 4 2) +
    (if b1.extractLsb' 3 1 = 1#1 then mcastLen (b1.extractLsb' 0 2) else ucastLen (b1.extractLsb' 0 2))

/-- `Lh` (R82): the length of the compressed header, told from bytes 0 and 1 and, for NH = 1, the NHC byte. -/
def iphcHeaderLength (D : ByteString) : Nat :=
  let base := iphcBaseLength D
  base + (if (byteAt D 0).extractLsb' 2 1 = 1#1 then 1 + portLen ((byteAt D base).extractLsb' 0 2) + 2 else 0)

end Sys2Proof.Machine
end

