-- ==== Sys2Proof/Machine/Fragmenter.lean ====
section
/-!
DEFINITION. The fragmenter: FRAGMENT (43_fragmenter.md R140 to R148), the pseudo-command SEND (R151), and the two transmit
rows of opcode_table.json, one fragment frame each (R145, R146, R147).
-/

namespace Sys2Proof.Machine

/-- The continuation frames from offset `off` on (R146): the loop `while off < Lc`, with fuel for its turns (each turn
advances, since B ≥ 13; the length of the datagram is fuel enough). -/
def contFrames (B : Nat) (tag : Tag) (cdg : ByteString) : Nat → Nat → List ByteString
  | 0, _ => []
  | fuel + 1, off =>
    if off < cdg.length then
      let n := contLen B cdg.length off
      fragNFrame (BitVec.ofNat 11 cdg.length) tag (BitVec.ofNat 8 (off / 8)) (slice cdg off (off + n)) ::
        contFrames B tag cdg fuel (off + n)
    else []

/-- The first fragment frame `F1` (R145). -/
def firstFrame (B : Nat) (tag : Tag) (cdg : ByteString) : ByteString :=
  frag1Frame (BitVec.ofNat 11 cdg.length) tag (slice cdg 0 (firstLen B))

/-- All frames of a fragmented datagram, in the order they are emitted (R145, R146, R147). -/
def fragFrames (B : Nat) (tag : Tag) (cdg : ByteString) : List ByteString :=
  firstFrame B tag cdg :: contFrames B tag cdg cdg.length (firstLen B)

/-- Frames sent, then the status: `OK` with all accepted, or `LinkTransmitFailure` with those accepted before (R148). -/
def transmitFrames (dst : LinkAddr) (Fs : List ByteString) (s : State) : State :=
  let r := emitFrames dst Fs s
  r.1.complete (if r.2.2 then .ok else .linkTransmitFailure) none (.sent r.2.1)

/-- FRAGMENT: the size check first (R141; its result is R148's `sent = 0`, log entry 20), the single-frame path (R142), else
the tag is allocated (R144) and the fragments are sent (R145 to R147). -/
def fragmentDatagram (cdg : ByteString) (dst : LinkAddr) (s : State) : State :=
  if 2047 < cdg.length then s.complete .datagramTooLarge none (.sent 0)
  else if cdg.length ≤ s.cfg.budget then transmitFrames dst [cdg] s
  else transmitFrames dst (fragFrames s.cfg.budget s.tagCtr cdg) (s.setTag (s.tagCtr + 1))

/-- SEND (R151): ENCODE's check, then FRAGMENT of its output. ENCODE's error is returned as a status alone (R151, R180; log
entry 9); otherwise status and result are FRAGMENT's (R41, R148). -/
def sendPacket (pkt : ByteString) (srcLl dstLl : LinkAddr) (s : State) : State :=
  if s.cfg.outCap < pkt.length then s.complete .bufferTooSmall none .none
  else fragmentDatagram (compress s.ctx pkt srcLl dstLl) dstLl s

/-- FRAGMENT cdg, dst_ll (R140): refused for an empty datagram. -/
def execFragment (cdg : ByteString) (dstLl : LinkAddr) (s : State) : Host.Outcome State Fault Refusal :=
  s.accept (datagramOk cdg) (fragmentDatagram cdg dstLl s)

/-- SEND pkt, src_ll, dst_ll (R93, R151): refused where ENCODE is (R121). -/
def execSend (pkt : ByteString) (srcLl dstLl : LinkAddr) (s : State) : Host.Outcome State Fault Refusal :=
  s.accept (packetOk pkt) (sendPacket pkt srcLl dstLl s)

/-- TX_FRAG1 (R145, R147): one first fragment handed to the link. It is a part of FRAGMENT, not a command, so it presents
no status; refused unless it is a first fragment R145 sends (log entry 8). -/
def execTxFrag1 (size : Size) (tag : Tag) (data : ByteString) (dstLl : LinkAddr) (s : State) :
    Host.Outcome State Fault Refusal :=
  s.accept (txFrag1Ok s.cfg.budget size data) (s.emitFrame dstLl (frag1Frame size tag data))

/-- TX_FRAGN (R146, R147): one continuation fragment handed to the link; as for TX_FRAG1 (log entry 8). -/
def execTxFragN (size : Size) (tag : Tag) (off8 : Byte) (data : ByteString) (dstLl : LinkAddr) (s : State) :
    Host.Outcome State Fault Refusal :=
  s.accept (txFragNOk s.cfg.budget size off8 data) (s.emitFrame dstLl (fragNFrame size tag off8 data))

end Sys2Proof.Machine
end

