-- ==== Sys2Proof/Machine/Reassembly.lean ====
section
/-!
DEFINITION. The frame dispatcher and the reassembly table: RECV and its five classes (44_dispatch_reassembly.md R155 to
R168, R174), the sweep TICK (R170) and the teardown FLUSH (R172). Each class rule answers the state and the outcome code;
RECV then completes with status `OK` (R155).
-/

namespace Sys2Proof.Machine

/-- `find_sender(s)` (R174): the valid slot whose sender equals the address, length and bytes. -/
def findSender (s : State) (sender : LinkAddr) : Option (Nat × ReassSlot) :=
  findSlot (fun e => e.valid && e.sender == sender) s.reass

/-- The lowest slot that is not valid (R161). -/
def findFree (s : State) : Option (Nat × ReassSlot) := findSlot (fun e => !e.valid) s.reass

/-- A frame is dropped: one counter, one outcome, nothing else (R184). -/
def dropFrame (c : Counter) (o : RxOutcome) (s : State) : State × RxOutcome := (s.count c, o)

/-- The entry of slot k is discarded: the slot becomes invalid; its other fields keep what they held, which no rule reads
(R28, R34; log entry 19). -/
def discardEntry (k : Nat) (e : ReassSlot) (s : State) : State := s.writeReass k { e with valid := false }

/-- `post_dispatch(D)` (R167): a completed datagram goes where its first byte says. -/
def postDispatch (D : ByteString) (sender receiver : LinkAddr) (s : State) : State × RxOutcome :=
  match frameClass D with
  | .iphc => (s.toDecoder D sender receiver, .reassToDecoder)
  | .uncomp => (s.deliverIp (D.drop 1), .reassDeliveredIp)
  | _ => dropFrame .rxCorrupt .dropCorrupt s

/-- `complete(k)` (R165): the entry is removed, counted, and its datagram handed on. -/
def completeEntry (k : Nat) (e : ReassSlot) (sender receiver : LinkAddr) (s : State) : State × RxOutcome :=
  postDispatch e.buf sender receiver ((discardEntry k e s).count .reassComplete)

/-- Slot k takes the entry e; a full entry completes, any other waits for its continuation (R162, R168). -/
def storeEntry (k : Nat) (e : ReassSlot) (sender receiver : LinkAddr) (s : State) : State × RxOutcome :=
  if e.rlen = e.size then completeEntry k e sender receiver (s.writeReass k e)
  else (s.writeReass k e, .fragAccepted)

/-- The entry a first fragment creates (R162); the ttl is set here and nowhere else (R169; widths:
log entry 16). -/
def newEntry (cfg : Configuration) (sender : LinkAddr) (size : Size) (tag : Tag) (data : ByteString) : ReassSlot :=
  { valid := true, sender := sender, tag := tag, size := size, buf := data, rlen := BitVec.ofNat 11 data.length,
    ttl := BitVec.ofNat 8 cfg.reassTimeout }

/-- The table decision for a first fragment that parsed (R161): duplicate, replacement, new entry, or no slot. -/
def placeFrag1 (size : Size) (tag : Tag) (data : ByteString) (sender receiver : LinkAddr) (s : State) :
    State × RxOutcome :=
  match findSender s sender with
  | some (k, e) =>
    if e.tag = tag ∧ e.size = size then dropFrame .rxDupFrag1 .dropDup s
    else
      storeEntry k (newEntry s.cfg sender size tag data) sender receiver
        ((discardEntry k e s).count .reassReplaced)
  | none =>
    match findFree s with
    | some (k, _) => storeEntry k (newEntry s.cfg sender size tag data) sender receiver s
    | none => dropFrame .rxNoResource .dropNoResource s

/-- `rx_uncomp` (R156): the packet is delivered without its dispatch byte, unchecked. -/
def rxUncomp (frame : ByteString) (s : State) : State × RxOutcome := (s.deliverIp (frame.drop 1), .deliveredIp)

/-- `rx_iphc` (R157): the frame goes whole to the decoder, unchecked (R95). -/
def rxIphc (frame : ByteString) (sender receiver : LinkAddr) (s : State) : State × RxOutcome :=
  (s.toDecoder frame sender receiver, .toDecoder)

/-- `rx_unknown` (R159). -/
def rxUnknown (s : State) : State × RxOutcome := dropFrame .rxUnknown .dropUnknown s

/-- `rx_frag1` (R160, R161, R162): a truncated header, size 0, or more data than the size is corrupt; else the table
decides. -/
def rxFrag1 (frame : ByteString) (sender receiver : LinkAddr) (s : State) : State × RxOutcome :=
  match parseFrag1 frame with
  | none => dropFrame .rxCorrupt .dropCorrupt s
  | some (size, tag, data) =>
    if size = 0 ∨ size.toNat < data.length then dropFrame .rxCorrupt .dropCorrupt s
    else placeFrag1 size tag data sender receiver s

/-- `rx_fragn` past the lookup (R164, R166, R168): the offset must be the running length and the data must fit; then they
are appended. -/
def extendEntry (k : Nat) (e : ReassSlot) (off : Nat) (data : ByteString) (sender receiver : LinkAddr) (s : State) :
    State × RxOutcome :=
  if off ≠ e.rlen.toNat then dropFrame .rxOffsetMismatch .dropOffset (discardEntry k e s)
  else if e.size.toNat < e.rlen.toNat + data.length then dropFrame .rxCorrupt .dropCorrupt (discardEntry k e s)
  else storeEntry k { e with buf := e.buf ++ data, rlen := e.rlen + BitVec.ofNat 11 data.length } sender receiver s

/-- `rx_fragn` (R163): a truncated header is corrupt; a continuation that matches no entry by sender, tag and size is
dropped and touches none. -/
def rxFragN (frame : ByteString) (sender receiver : LinkAddr) (s : State) : State × RxOutcome :=
  match parseFragN frame with
  | none => dropFrame .rxCorrupt .dropCorrupt s
  | some (size, tag, off8, data) =>
    match findSender s sender with
    | none => dropFrame .rxNoEntry .dropNoEntry s
    | some (k, e) =>
      if e.tag ≠ tag ∨ e.size ≠ size then dropFrame .rxNoEntry .dropNoEntry s
      else extendEntry k e (off8.toNat * 8) data sender receiver s

/-- The class rules (R155). -/
def rxClass (c : FrameClass) (frame : ByteString) (sender receiver : LinkAddr) (s : State) : State × RxOutcome :=
  match c with
  | .uncomp => rxUncomp frame s
  | .iphc => rxIphc frame sender receiver s
  | .frag1 => rxFrag1 frame sender receiver s
  | .fragN => rxFragN frame sender receiver s
  | .unknown => rxUnknown s

/-- RECV always completes with `OK` and the outcome of its class rule (R155, R181). -/
def finishRx (r : State × RxOutcome) : State := r.1.complete .ok (some r.2) .none

/-- RECV frame, sender_ll, receiver_ll (R155). -/
def execRecv (frame : ByteString) (senderLl receiverLl : LinkAddr) (s : State) : Host.Outcome State Fault Refusal :=
  s.accept true (finishRx (rxClass (frameClass frame) frame senderLl receiverLl s))

/-- RX_UNCOMP (R156): RECV of a frame of this class, refused for a frame of another (log entry 7; as for the four rows
below). -/
def execRxUncomp (frame : ByteString) (_senderLl _receiverLl : LinkAddr) (s : State) :
    Host.Outcome State Fault Refusal :=
  s.accept (frameClass frame == .uncomp) (finishRx (rxUncomp frame s))

/-- RX_IPHC (R157): RECV of a frame of this class. -/
def execRxIphc (frame : ByteString) (senderLl receiverLl : LinkAddr) (s : State) : Host.Outcome State Fault Refusal :=
  s.accept (frameClass frame == .iphc) (finishRx (rxIphc frame senderLl receiverLl s))

/-- RX_FRAG1 (R160): RECV of a frame of this class. -/
def execRxFrag1 (frame : ByteString) (senderLl receiverLl : LinkAddr) (s : State) : Host.Outcome State Fault Refusal :=
  s.accept (frameClass frame == .frag1) (finishRx (rxFrag1 frame senderLl receiverLl s))

/-- RX_FRAGN (R163): RECV of a frame of this class. -/
def execRxFragN (frame : ByteString) (senderLl receiverLl : LinkAddr) (s : State) : Host.Outcome State Fault Refusal :=
  s.accept (frameClass frame == .fragN) (finishRx (rxFragN frame senderLl receiverLl s))

/-- RX_UNKNOWN (R159): RECV of a frame of this class. -/
def execRxUnknown (frame : ByteString) (_senderLl _receiverLl : LinkAddr) (s : State) :
    Host.Outcome State Fault Refusal :=
  s.accept (frameClass frame == .unknown) (finishRx (rxUnknown s))

/-- One sweep of one slot (R170): a valid entry's ttl is decremented, and the entry is removed when it reaches 0. -/
def sweepSlot (e : ReassSlot) : ReassSlot :=
  if e.valid then
    if e.ttl - 1 = 0 then { e with ttl := e.ttl - 1, valid := false } else { e with ttl := e.ttl - 1 }
  else e

/-- The slot's entry is removed by the next sweep (R170). -/
def expires (e : ReassSlot) : Bool := e.valid && e.ttl - 1 == 0

/-- TICK (R170): every slot swept, every removal counted. -/
def sweep (s : State) : State :=
  ((s.setReass (s.reass.map sweepSlot)).countN .reassTimeout (s.reass.countP expires)).complete .ok none .none

/-- FLUSH (R172): every entry discarded and counted; nothing is delivered. -/
def flushAll (s : State) : State :=
  ((s.setReass (s.reass.map fun e => { e with valid := false })).countN .reassFlushed
    (s.reass.countP fun e => e.valid)).complete .ok none .none

/-- TICK. -/
def execTick (s : State) : Host.Outcome State Fault Refusal := s.accept true (sweep s)

/-- FLUSH. -/
def execFlush (s : State) : Host.Outcome State Fault Refusal := s.accept true (flushAll s)

end Sys2Proof.Machine
end

