-- ==== Sys2Proof/Machine/Reserved.lean ====
section
/-!
DEFINITION. The reserved command codes 0x0 and 0x9..0xF (30_encoding.md R94): each changes no state, gives no output and
completes with status `IllegalCommand` (60_exceptions.md R180).
-/

namespace Sys2Proof.Machine

/-- A reserved command code completes with `IllegalCommand` and does nothing else (R94). -/
def illegalCommand (s : State) : State := s.complete .illegalCommand none .none

/-- Command code 0x0, reserved (R94). -/
def execReservedCmd0 (s : State) : Host.Outcome State Fault Refusal := s.accept true (illegalCommand s)

/-- Command code 0x9, reserved (R94). -/
def execReservedCmd9 (s : State) : Host.Outcome State Fault Refusal := s.accept true (illegalCommand s)

/-- Command code 0xA, reserved (R94). -/
def execReservedCmdA (s : State) : Host.Outcome State Fault Refusal := s.accept true (illegalCommand s)

/-- Command code 0xB, reserved (R94). -/
def execReservedCmdB (s : State) : Host.Outcome State Fault Refusal := s.accept true (illegalCommand s)

/-- Command code 0xC, reserved (R94). -/
def execReservedCmdC (s : State) : Host.Outcome State Fault Refusal := s.accept true (illegalCommand s)

/-- Command code 0xD, reserved (R94). -/
def execReservedCmdD (s : State) : Host.Outcome State Fault Refusal := s.accept true (illegalCommand s)

/-- Command code 0xE, reserved (R94). -/
def execReservedCmdE (s : State) : Host.Outcome State Fault Refusal := s.accept true (illegalCommand s)

/-- Command code 0xF, reserved (R94). -/
def execReservedCmdF (s : State) : Host.Outcome State Fault Refusal := s.accept true (illegalCommand s)

end Sys2Proof.Machine
end

