-- ==== Sys2Proof/Machine/Dispatch.lean ====
section
/-! DEFINITION. The dispatch: one arm per row of opcode_table.json, each one call of the row's meaning. -/

namespace Sys2Proof.Machine

/-- What an instruction does (the operation rules of files 40 to 44). -/
def exec (i : Instr) (s : State) : Host.Outcome State Fault Refusal :=
  match i with
  | .setctx id pfx => Sys2Proof.Machine.execSetctx id pfx s
  | .rmctx id => Sys2Proof.Machine.execRmctx id s
  | .lookupctx id => Sys2Proof.Machine.execLookupctx id s
  | .encode pkt srcLl dstLl => Sys2Proof.Machine.execEncode pkt srcLl dstLl s
  | .fragment cdg dstLl => Sys2Proof.Machine.execFragment cdg dstLl s
  | .recv frame senderLl receiverLl => Sys2Proof.Machine.execRecv frame senderLl receiverLl s
  | .tick => Sys2Proof.Machine.execTick s
  | .flush => Sys2Proof.Machine.execFlush s
  | .reservedCmd0 => Sys2Proof.Machine.execReservedCmd0 s
  | .reservedCmd9 => Sys2Proof.Machine.execReservedCmd9 s
  | .reservedCmdA => Sys2Proof.Machine.execReservedCmdA s
  | .reservedCmdB => Sys2Proof.Machine.execReservedCmdB s
  | .reservedCmdC => Sys2Proof.Machine.execReservedCmdC s
  | .reservedCmdD => Sys2Proof.Machine.execReservedCmdD s
  | .reservedCmdE => Sys2Proof.Machine.execReservedCmdE s
  | .reservedCmdF => Sys2Proof.Machine.execReservedCmdF s
  | .send pkt srcLl dstLl => Sys2Proof.Machine.execSend pkt srcLl dstLl s
  | .rxUncomp frame senderLl receiverLl => Sys2Proof.Machine.execRxUncomp frame senderLl receiverLl s
  | .rxIphc frame senderLl receiverLl => Sys2Proof.Machine.execRxIphc frame senderLl receiverLl s
  | .rxFrag1 frame senderLl receiverLl => Sys2Proof.Machine.execRxFrag1 frame senderLl receiverLl s
  | .rxFragN frame senderLl receiverLl => Sys2Proof.Machine.execRxFragN frame senderLl receiverLl s
  | .rxUnknown frame senderLl receiverLl => Sys2Proof.Machine.execRxUnknown frame senderLl receiverLl s
  | .txFrag1 size tag data dstLl => Sys2Proof.Machine.execTxFrag1 size tag data dstLl s
  | .txFragN size tag off8 data dstLl => Sys2Proof.Machine.execTxFragN size tag off8 data dstLl s

end Sys2Proof.Machine
end

