-- ==== Sys2Proof/Machine/Fetch.lean ====
section
/-!
DEFINITION. What the block does with what stands at its inputs (10_state.md R40, R42, R46, R47): nothing presented leaves
the state as it is (60_exceptions.md R195); reset and a statistics read are done at once; a word is decoded. Step.lean runs
the decoded instruction.
-/

namespace Sys2Proof.Machine

/-- The input at the head is taken. -/
def State.dropInput (s : State) : State := { s with inputs := s.inputs.tail }

/-- What taking the next input leads to: a state that ends the step, or an instruction to run from a state. -/
inductive Taken where
  | done (t : State)
  | run (i : Instr) (t : State)
deriving DecidableEq, Repr

/-- A decoded word runs; a rejected one is refused, with nothing else written (R7, R19). -/
def takeWord (w : PortWord) (s : State) : Taken :=
  match decode w with
  | .instr i => .run i s
  | .rejected _ => .done s.refuse

/-- One input taken: reset (R200), the statistics read port (R46: the current values, no state changed), or a word. Under a
configuration outside R6 a word is refused (`State.accept`), but a reset and a statistics read, which are no commands, are done
as usual and set no mark: R19 and R203 refuse commands, and R6 says only that the model refuses the configuration. DESIGN
CHOICE (log entry 21). -/
def takeInput (s : State) : Taken :=
  match s.inputs with
  | [] => .done s
  | .reset :: _ => .done s.dropInput.doReset
  | .readStats :: _ => .done (s.dropInput.present (.stats s.stat))
  | .word w :: _ => takeWord w s.dropInput

/-- The environment presents a word before everything else that stands at the inputs. -/
def presentWord (s : State) (w : PortWord) : State := { s with inputs := .word w :: s.inputs }

end Sys2Proof.Machine
end

