-- ==== Sys2Proof/Machine/Step.lean ====
section
/-!
DEFINITION. One step: the block takes the next input and executes it to completion (10_state.md R40; 70_reset_and_hazards.md
R205: one whole command per step). How a program comes to run from reset: log entry 6.
-/

namespace Sys2Proof.Machine

/-- One step of the block. -/
def step (s : State) : Host.Outcome State Fault Refusal :=
  match takeInput s with
  | .done t => .next t
  | .run i t => exec i t

/-- The state with a table word presented as the next input; nothing else changes. -/
def State.withFetchWord (s : State) (nbits w : Nat) : State := presentWord s (tableWord nbits w)

end Sys2Proof.Machine
end

