-- ==== Sys2Proof/Laws/State.lean ====
section
/-!
SUPPORT. What each named update does to each field of State: one lemma per field per update, so that no proof unfolds a
record update.
-/

namespace Sys2Proof.Machine

variable (s : State)

@[simp] theorem State.writeCtx_cfg (k : Nat) (c : CtxSlot) : (s.writeCtx k c).cfg = s.cfg := rfl
@[simp] theorem State.writeCtx_ctx (k : Nat) (c : CtxSlot) : (s.writeCtx k c).ctx = s.ctx.set k c := rfl
@[simp] theorem State.writeCtx_reass (k : Nat) (c : CtxSlot) : (s.writeCtx k c).reass = s.reass := rfl
@[simp] theorem State.writeCtx_tagCtr (k : Nat) (c : CtxSlot) : (s.writeCtx k c).tagCtr = s.tagCtr := rfl
@[simp] theorem State.writeCtx_stat (k : Nat) (c : CtxSlot) : (s.writeCtx k c).stat = s.stat := rfl
@[simp] theorem State.writeCtx_refused (k : Nat) (c : CtxSlot) : (s.writeCtx k c).refused = s.refused := rfl
@[simp] theorem State.writeCtx_inputs (k : Nat) (c : CtxSlot) : (s.writeCtx k c).inputs = s.inputs := rfl
@[simp] theorem State.writeCtx_verdicts (k : Nat) (c : CtxSlot) : (s.writeCtx k c).verdicts = s.verdicts := rfl
@[simp] theorem State.writeCtx_draws (k : Nat) (c : CtxSlot) : (s.writeCtx k c).draws = s.draws := rfl
@[simp] theorem State.writeCtx_out (k : Nat) (c : CtxSlot) : (s.writeCtx k c).out = s.out := rfl

@[simp] theorem State.writeReass_cfg (k : Nat) (e : ReassSlot) : (s.writeReass k e).cfg = s.cfg := rfl
@[simp] theorem State.writeReass_ctx (k : Nat) (e : ReassSlot) : (s.writeReass k e).ctx = s.ctx := rfl
@[simp] theorem State.writeReass_reass (k : Nat) (e : ReassSlot) : (s.writeReass k e).reass = s.reass.set k e := rfl
@[simp] theorem State.writeReass_tagCtr (k : Nat) (e : ReassSlot) : (s.writeReass k e).tagCtr = s.tagCtr := rfl
@[simp] theorem State.writeReass_stat (k : Nat) (e : ReassSlot) : (s.writeReass k e).stat = s.stat := rfl
@[simp] theorem State.writeReass_refused (k : Nat) (e : ReassSlot) : (s.writeReass k e).refused = s.refused := rfl
@[simp] theorem State.writeReass_inputs (k : Nat) (e : ReassSlot) : (s.writeReass k e).inputs = s.inputs := rfl
@[simp] theorem State.writeReass_verdicts (k : Nat) (e : ReassSlot) : (s.writeReass k e).verdicts = s.verdicts := rfl
@[simp] theorem State.writeReass_draws (k : Nat) (e : ReassSlot) : (s.writeReass k e).draws = s.draws := rfl
@[simp] theorem State.writeReass_out (k : Nat) (e : ReassSlot) : (s.writeReass k e).out = s.out := rfl

@[simp] theorem State.setCtx_cfg (l : List CtxSlot) : (s.setCtx l).cfg = s.cfg := rfl
@[simp] theorem State.setCtx_ctx (l : List CtxSlot) : (s.setCtx l).ctx = l := rfl
@[simp] theorem State.setCtx_reass (l : List CtxSlot) : (s.setCtx l).reass = s.reass := rfl
@[simp] theorem State.setCtx_tagCtr (l : List CtxSlot) : (s.setCtx l).tagCtr = s.tagCtr := rfl
@[simp] theorem State.setCtx_stat (l : List CtxSlot) : (s.setCtx l).stat = s.stat := rfl
@[simp] theorem State.setCtx_refused (l : List CtxSlot) : (s.setCtx l).refused = s.refused := rfl
@[simp] theorem State.setCtx_inputs (l : List CtxSlot) : (s.setCtx l).inputs = s.inputs := rfl
@[simp] theorem State.setCtx_verdicts (l : List CtxSlot) : (s.setCtx l).verdicts = s.verdicts := rfl
@[simp] theorem State.setCtx_draws (l : List CtxSlot) : (s.setCtx l).draws = s.draws := rfl
@[simp] theorem State.setCtx_out (l : List CtxSlot) : (s.setCtx l).out = s.out := rfl

@[simp] theorem State.setReass_cfg (l : List ReassSlot) : (s.setReass l).cfg = s.cfg := rfl
@[simp] theorem State.setReass_ctx (l : List ReassSlot) : (s.setReass l).ctx = s.ctx := rfl
@[simp] theorem State.setReass_reass (l : List ReassSlot) : (s.setReass l).reass = l := rfl
@[simp] theorem State.setReass_tagCtr (l : List ReassSlot) : (s.setReass l).tagCtr = s.tagCtr := rfl
@[simp] theorem State.setReass_stat (l : List ReassSlot) : (s.setReass l).stat = s.stat := rfl
@[simp] theorem State.setReass_refused (l : List ReassSlot) : (s.setReass l).refused = s.refused := rfl
@[simp] theorem State.setReass_inputs (l : List ReassSlot) : (s.setReass l).inputs = s.inputs := rfl
@[simp] theorem State.setReass_verdicts (l : List ReassSlot) : (s.setReass l).verdicts = s.verdicts := rfl
@[simp] theorem State.setReass_draws (l : List ReassSlot) : (s.setReass l).draws = s.draws := rfl
@[simp] theorem State.setReass_out (l : List ReassSlot) : (s.setReass l).out = s.out := rfl

@[simp] theorem State.setTag_cfg (t : Tag) : (s.setTag t).cfg = s.cfg := rfl
@[simp] theorem State.setTag_ctx (t : Tag) : (s.setTag t).ctx = s.ctx := rfl
@[simp] theorem State.setTag_reass (t : Tag) : (s.setTag t).reass = s.reass := rfl
@[simp] theorem State.setTag_tagCtr (t : Tag) : (s.setTag t).tagCtr = t := rfl
@[simp] theorem State.setTag_stat (t : Tag) : (s.setTag t).stat = s.stat := rfl
@[simp] theorem State.setTag_refused (t : Tag) : (s.setTag t).refused = s.refused := rfl
@[simp] theorem State.setTag_inputs (t : Tag) : (s.setTag t).inputs = s.inputs := rfl
@[simp] theorem State.setTag_verdicts (t : Tag) : (s.setTag t).verdicts = s.verdicts := rfl
@[simp] theorem State.setTag_draws (t : Tag) : (s.setTag t).draws = s.draws := rfl
@[simp] theorem State.setTag_out (t : Tag) : (s.setTag t).out = s.out := rfl

@[simp] theorem State.countN_cfg (c : Counter) (n : Nat) : (s.countN c n).cfg = s.cfg := rfl
@[simp] theorem State.countN_ctx (c : Counter) (n : Nat) : (s.countN c n).ctx = s.ctx := rfl
@[simp] theorem State.countN_reass (c : Counter) (n : Nat) : (s.countN c n).reass = s.reass := rfl
@[simp] theorem State.countN_tagCtr (c : Counter) (n : Nat) : (s.countN c n).tagCtr = s.tagCtr := rfl
@[simp] theorem State.countN_stat (c : Counter) (n : Nat) : (s.countN c n).stat = s.stat.add c n := rfl
@[simp] theorem State.countN_refused (c : Counter) (n : Nat) : (s.countN c n).refused = s.refused := rfl
@[simp] theorem State.countN_inputs (c : Counter) (n : Nat) : (s.countN c n).inputs = s.inputs := rfl
@[simp] theorem State.countN_verdicts (c : Counter) (n : Nat) : (s.countN c n).verdicts = s.verdicts := rfl
@[simp] theorem State.countN_draws (c : Counter) (n : Nat) : (s.countN c n).draws = s.draws := rfl
@[simp] theorem State.countN_out (c : Counter) (n : Nat) : (s.countN c n).out = s.out := rfl

@[simp] theorem State.count_cfg (c : Counter) : (s.count c).cfg = s.cfg := rfl
@[simp] theorem State.count_ctx (c : Counter) : (s.count c).ctx = s.ctx := rfl
@[simp] theorem State.count_reass (c : Counter) : (s.count c).reass = s.reass := rfl
@[simp] theorem State.count_tagCtr (c : Counter) : (s.count c).tagCtr = s.tagCtr := rfl
@[simp] theorem State.count_stat (c : Counter) : (s.count c).stat = s.stat.add c 1 := rfl
@[simp] theorem State.count_refused (c : Counter) : (s.count c).refused = s.refused := rfl
@[simp] theorem State.count_inputs (c : Counter) : (s.count c).inputs = s.inputs := rfl
@[simp] theorem State.count_verdicts (c : Counter) : (s.count c).verdicts = s.verdicts := rfl
@[simp] theorem State.count_draws (c : Counter) : (s.count c).draws = s.draws := rfl
@[simp] theorem State.count_out (c : Counter) : (s.count c).out = s.out := rfl

@[simp] theorem State.present_cfg (o : Output) : (s.present o).cfg = s.cfg := rfl
@[simp] theorem State.present_ctx (o : Output) : (s.present o).ctx = s.ctx := rfl
@[simp] theorem State.present_reass (o : Output) : (s.present o).reass = s.reass := rfl
@[simp] theorem State.present_tagCtr (o : Output) : (s.present o).tagCtr = s.tagCtr := rfl
@[simp] theorem State.present_stat (o : Output) : (s.present o).stat = s.stat := rfl
@[simp] theorem State.present_refused (o : Output) : (s.present o).refused = s.refused := rfl
@[simp] theorem State.present_inputs (o : Output) : (s.present o).inputs = s.inputs := rfl
@[simp] theorem State.present_verdicts (o : Output) : (s.present o).verdicts = s.verdicts := rfl
@[simp] theorem State.present_draws (o : Output) : (s.present o).draws = s.draws := rfl
@[simp] theorem State.present_out (o : Output) : (s.present o).out = s.out ++ [o] := rfl

@[simp] theorem State.complete_cfg (st : Status) (oc : Option RxOutcome) (r : CmdResult) : (s.complete st oc r).cfg = s.cfg := rfl
@[simp] theorem State.complete_ctx (st : Status) (oc : Option RxOutcome) (r : CmdResult) : (s.complete st oc r).ctx = s.ctx := rfl
@[simp] theorem State.complete_reass (st : Status) (oc : Option RxOutcome) (r : CmdResult) : (s.complete st oc r).reass = s.reass := rfl
@[simp] theorem State.complete_tagCtr (st : Status) (oc : Option RxOutcome) (r : CmdResult) : (s.complete st oc r).tagCtr = s.tagCtr := rfl
@[simp] theorem State.complete_stat (st : Status) (oc : Option RxOutcome) (r : CmdResult) : (s.complete st oc r).stat = s.stat := rfl
@[simp] theorem State.complete_refused (st : Status) (oc : Option RxOutcome) (r : CmdResult) : (s.complete st oc r).refused = s.refused := rfl
@[simp] theorem State.complete_inputs (st : Status) (oc : Option RxOutcome) (r : CmdResult) : (s.complete st oc r).inputs = s.inputs := rfl
@[simp] theorem State.complete_verdicts (st : Status) (oc : Option RxOutcome) (r : CmdResult) : (s.complete st oc r).verdicts = s.verdicts := rfl
@[simp] theorem State.complete_draws (st : Status) (oc : Option RxOutcome) (r : CmdResult) : (s.complete st oc r).draws = s.draws := rfl
@[simp] theorem State.complete_out (st : Status) (oc : Option RxOutcome) (r : CmdResult) : (s.complete st oc r).out = s.out ++ [.completion { status := st, outcome := oc, result := r }] := rfl

@[simp] theorem State.deliverIp_cfg (P : ByteString) : (s.deliverIp P).cfg = s.cfg := rfl
@[simp] theorem State.deliverIp_ctx (P : ByteString) : (s.deliverIp P).ctx = s.ctx := rfl
@[simp] theorem State.deliverIp_reass (P : ByteString) : (s.deliverIp P).reass = s.reass := rfl
@[simp] theorem State.deliverIp_tagCtr (P : ByteString) : (s.deliverIp P).tagCtr = s.tagCtr := rfl
@[simp] theorem State.deliverIp_stat (P : ByteString) : (s.deliverIp P).stat = s.stat := rfl
@[simp] theorem State.deliverIp_refused (P : ByteString) : (s.deliverIp P).refused = s.refused := rfl
@[simp] theorem State.deliverIp_inputs (P : ByteString) : (s.deliverIp P).inputs = s.inputs := rfl
@[simp] theorem State.deliverIp_verdicts (P : ByteString) : (s.deliverIp P).verdicts = s.verdicts := rfl
@[simp] theorem State.deliverIp_draws (P : ByteString) : (s.deliverIp P).draws = s.draws := rfl
@[simp] theorem State.deliverIp_out (P : ByteString) : (s.deliverIp P).out = s.out ++ [.ip P] := rfl

@[simp] theorem State.toDecoder_cfg (D : ByteString) (a b : LinkAddr) : (s.toDecoder D a b).cfg = s.cfg := rfl
@[simp] theorem State.toDecoder_ctx (D : ByteString) (a b : LinkAddr) : (s.toDecoder D a b).ctx = s.ctx := rfl
@[simp] theorem State.toDecoder_reass (D : ByteString) (a b : LinkAddr) : (s.toDecoder D a b).reass = s.reass := rfl
@[simp] theorem State.toDecoder_tagCtr (D : ByteString) (a b : LinkAddr) : (s.toDecoder D a b).tagCtr = s.tagCtr := rfl
@[simp] theorem State.toDecoder_stat (D : ByteString) (a b : LinkAddr) : (s.toDecoder D a b).stat = s.stat := rfl
@[simp] theorem State.toDecoder_refused (D : ByteString) (a b : LinkAddr) : (s.toDecoder D a b).refused = s.refused := rfl
@[simp] theorem State.toDecoder_inputs (D : ByteString) (a b : LinkAddr) : (s.toDecoder D a b).inputs = s.inputs := rfl
@[simp] theorem State.toDecoder_verdicts (D : ByteString) (a b : LinkAddr) : (s.toDecoder D a b).verdicts = s.verdicts := rfl
@[simp] theorem State.toDecoder_draws (D : ByteString) (a b : LinkAddr) : (s.toDecoder D a b).draws = s.draws := rfl
@[simp] theorem State.toDecoder_out (D : ByteString) (a b : LinkAddr) : (s.toDecoder D a b).out = s.out ++ [.decoder D a b D.length] := rfl

@[simp] theorem State.refuse_cfg : (s.refuse).cfg = s.cfg := rfl
@[simp] theorem State.refuse_ctx : (s.refuse).ctx = s.ctx := rfl
@[simp] theorem State.refuse_reass : (s.refuse).reass = s.reass := rfl
@[simp] theorem State.refuse_tagCtr : (s.refuse).tagCtr = s.tagCtr := rfl
@[simp] theorem State.refuse_stat : (s.refuse).stat = s.stat := rfl
@[simp] theorem State.refuse_refused : (s.refuse).refused = true := rfl
@[simp] theorem State.refuse_inputs : (s.refuse).inputs = s.inputs := rfl
@[simp] theorem State.refuse_verdicts : (s.refuse).verdicts = s.verdicts := rfl
@[simp] theorem State.refuse_draws : (s.refuse).draws = s.draws := rfl
@[simp] theorem State.refuse_out : (s.refuse).out = s.out := rfl

@[simp] theorem State.doReset_cfg : (s.doReset).cfg = s.cfg := rfl
@[simp] theorem State.doReset_ctx : (s.doReset).ctx = List.replicate s.cfg.nCtx CtxSlot.free := rfl
@[simp] theorem State.doReset_reass : (s.doReset).reass = List.replicate s.cfg.nReass ReassSlot.free := rfl
@[simp] theorem State.doReset_tagCtr : (s.doReset).tagCtr = 0 := rfl
@[simp] theorem State.doReset_stat : (s.doReset).stat = Stats.zero := rfl
@[simp] theorem State.doReset_refused : (s.doReset).refused = s.refused := rfl
@[simp] theorem State.doReset_inputs : (s.doReset).inputs = s.inputs := rfl
@[simp] theorem State.doReset_verdicts : (s.doReset).verdicts = s.verdicts := rfl
@[simp] theorem State.doReset_draws : (s.doReset).draws = s.draws := rfl
@[simp] theorem State.doReset_out : (s.doReset).out = s.out := rfl

@[simp] theorem State.dropInput_cfg : (s.dropInput).cfg = s.cfg := rfl
@[simp] theorem State.dropInput_ctx : (s.dropInput).ctx = s.ctx := rfl
@[simp] theorem State.dropInput_reass : (s.dropInput).reass = s.reass := rfl
@[simp] theorem State.dropInput_tagCtr : (s.dropInput).tagCtr = s.tagCtr := rfl
@[simp] theorem State.dropInput_stat : (s.dropInput).stat = s.stat := rfl
@[simp] theorem State.dropInput_refused : (s.dropInput).refused = s.refused := rfl
@[simp] theorem State.dropInput_inputs : (s.dropInput).inputs = s.inputs.tail := rfl
@[simp] theorem State.dropInput_verdicts : (s.dropInput).verdicts = s.verdicts := rfl
@[simp] theorem State.dropInput_draws : (s.dropInput).draws = s.draws := rfl
@[simp] theorem State.dropInput_out : (s.dropInput).out = s.out := rfl

/-! Drawing a verdict moves `verdicts` or `draws` and nothing else (R45). -/

@[simp] theorem State.dropVerdict_verdicts : s.dropVerdict.verdicts = s.verdicts.tail := by
  unfold State.dropVerdict; split <;> simp_all

@[simp] theorem State.dropVerdict_draws :
    s.dropVerdict.draws = s.draws + (if s.verdicts = [] then 1 else 0) := by
  unfold State.dropVerdict; split <;> simp_all

@[simp] theorem State.dropVerdict_cfg : s.dropVerdict.cfg = s.cfg := by
  unfold State.dropVerdict; split <;> rfl

@[simp] theorem State.dropVerdict_ctx : s.dropVerdict.ctx = s.ctx := by
  unfold State.dropVerdict; split <;> rfl

@[simp] theorem State.dropVerdict_reass : s.dropVerdict.reass = s.reass := by
  unfold State.dropVerdict; split <;> rfl

@[simp] theorem State.dropVerdict_tagCtr : s.dropVerdict.tagCtr = s.tagCtr := by
  unfold State.dropVerdict; split <;> rfl

@[simp] theorem State.dropVerdict_stat : s.dropVerdict.stat = s.stat := by
  unfold State.dropVerdict; split <;> rfl

@[simp] theorem State.dropVerdict_refused : s.dropVerdict.refused = s.refused := by
  unfold State.dropVerdict; split <;> rfl

@[simp] theorem State.dropVerdict_inputs : s.dropVerdict.inputs = s.inputs := by
  unfold State.dropVerdict; split <;> rfl

@[simp] theorem State.dropVerdict_out : s.dropVerdict.out = s.out := by
  unfold State.dropVerdict; split <;> rfl

/-! `emit_frame` presents the frame with its verdict (R45). -/

@[simp] theorem State.emitFrame_out (dst : LinkAddr) (F : ByteString) :
    (s.emitFrame dst F).out = s.out ++ [.link dst F s.nextVerdict] := by
  simp [State.emitFrame]

@[simp] theorem State.emitFrame_cfg (dst : LinkAddr) (F : ByteString) : (s.emitFrame dst F).cfg = s.cfg := by
  simp [State.emitFrame]

@[simp] theorem State.emitFrame_ctx (dst : LinkAddr) (F : ByteString) : (s.emitFrame dst F).ctx = s.ctx := by
  simp [State.emitFrame]

@[simp] theorem State.emitFrame_reass (dst : LinkAddr) (F : ByteString) : (s.emitFrame dst F).reass = s.reass := by
  simp [State.emitFrame]

@[simp] theorem State.emitFrame_tagCtr (dst : LinkAddr) (F : ByteString) : (s.emitFrame dst F).tagCtr = s.tagCtr := by
  simp [State.emitFrame]

@[simp] theorem State.emitFrame_stat (dst : LinkAddr) (F : ByteString) : (s.emitFrame dst F).stat = s.stat := by
  simp [State.emitFrame]

@[simp] theorem State.emitFrame_refused (dst : LinkAddr) (F : ByteString) : (s.emitFrame dst F).refused = s.refused := by
  simp [State.emitFrame]

@[simp] theorem State.emitFrame_inputs (dst : LinkAddr) (F : ByteString) : (s.emitFrame dst F).inputs = s.inputs := by
  simp [State.emitFrame]

@[simp] theorem State.emitFrame_verdicts (dst : LinkAddr) (F : ByteString) : (s.emitFrame dst F).verdicts = s.verdicts.tail := by
  simp [State.emitFrame]

@[simp] theorem State.emitFrame_draws (dst : LinkAddr) (F : ByteString) : (s.emitFrame dst F).draws = s.draws + (if s.verdicts = [] then 1 else 0) := by
  simp [State.emitFrame]

/-- Two states with the same ten fields are the same state. -/
theorem State.eq_of_fields {s t : State} (h1 : s.cfg = t.cfg) (h2 : s.ctx = t.ctx) (h3 : s.reass = t.reass)
    (h4 : s.tagCtr = t.tagCtr) (h5 : s.stat = t.stat) (h6 : s.refused = t.refused) (h7 : s.inputs = t.inputs)
    (h8 : s.verdicts = t.verdicts) (h9 : s.draws = t.draws) (h10 : s.out = t.out) : s = t := by
  cases s; cases t; simp_all

/-- A counter after an increment of some counter (R31). -/
@[simp] theorem Stats.get_add (t : Stats) (c d : Counter) (n : Nat) :
    (t.add c n).get d = if d = c then t.get d + BitVec.ofNat 32 n else t.get d := by
  cases c <;> cases d <;> rfl

/-- Counters are the same when every one of them is. -/
theorem Stats.eq_of_get {t u : Stats} (h : ∀ c, t.get c = u.get c) : t = u := by
  have h0 := h .rxUnknown; have h1 := h .rxCorrupt; have h2 := h .rxDupFrag1; have h3 := h .rxNoEntry
  have h4 := h .rxOffsetMismatch; have h5 := h .rxNoResource; have h6 := h .reassReplaced
  have h7 := h .reassComplete; have h8 := h .reassTimeout; have h9 := h .reassFlushed
  cases t; cases u; simp_all [Stats.get]

end Sys2Proof.Machine
end

