-- ==== Sys2Proof/Laws/Ops.lean ====
section
/-! SUPPORT. What the shared operations of Machine/Bytes.lean and Machine/Ops.lean can do, one lemma each. -/

namespace Sys2Proof.Machine

/-! Byte strings. -/

@[simp] theorem slice_length (S : ByteString) (i j : Nat) : (slice S i j).length = min (j - i) (S.length - i) := by
  simp [slice]

/-- Neighbouring slices join (R8). -/
theorem slice_append_slice (S : ByteString) {i j k : Nat} (hij : i ≤ j) (hjk : j ≤ k) :
    slice S i j ++ slice S j k = slice S i k := by
  have h1 : k - i = (j - i) + (k - j) := by omega
  have h2 : S.drop j = (S.drop i).drop (j - i) := by rw [List.drop_drop]; congr 1; omega
  simp only [slice]
  rw [h1, h2, List.take_add]

@[simp] theorem slice_zero_length (S : ByteString) : slice S 0 S.length = S := by simp [slice]

/-- A slice that reaches the end is a suffix (R8). -/
theorem slice_to_end (S : ByteString) (i : Nat) : slice S i S.length = S.drop i := by
  simp [slice]

/-- `MemRead` answers exactly within the string (R11). -/
theorem memRead_eq_some {S : ByteString} {off n : Nat} {r : ByteString} :
    memRead S off n = some r ↔ off + n ≤ S.length ∧ r = slice S off (off + n) := by
  unfold memRead; split <;> simp_all [eq_comm]

theorem memRead_eq_none {S : ByteString} {off n : Nat} : memRead S off n = none ↔ S.length < off + n := by
  unfold memRead; split <;> simp_all

/-- The first `n` bytes are not needed past index `n`. -/
theorem byteAt_slice_zero (S : ByteString) {i n : Nat} (h : i < n) : byteAt (slice S 0 n) i = byteAt S i := by
  simp [byteAt, slice, List.getD_eq_getElem?_getD, h]

theorem floor8_le (x : Nat) : floor8 x ≤ x := by unfold floor8; omega

theorem floor8_dvd (x : Nat) : 8 ∣ floor8 x := ⟨x / 8, by unfold floor8; omega⟩

theorem le_floor8 {x : Nat} (h : 8 ≤ x) : 8 ≤ floor8 x := by unfold floor8; omega

/-! Big-endian integers as numbers (R9). -/

/-- Two bytes joined, as a number (R9). -/
theorem append_toNat8 (a b : Byte) : (a ++ b : BitVec 16).toNat = a.toNat * 256 + b.toNat := by
  have h : (a ++ b).toNat = a.toNat <<< 8 ||| b.toNat := BitVec.toNat_append a b
  rw [← Nat.shiftLeft_add_eq_or_of_lt b.isLt, Nat.shiftLeft_eq] at h
  exact h

/-- Three bits and a byte joined, as a number (the 11-bit size of R87). -/
theorem append_toNat3 (a : BitVec 3) (b : Byte) : (a ++ b : BitVec 11).toNat = a.toNat * 256 + b.toNat := by
  have h : (a ++ b).toNat = a.toNat <<< 8 ||| b.toNat := BitVec.toNat_append a b
  rw [← Nat.shiftLeft_add_eq_or_of_lt b.isLt, Nat.shiftLeft_eq] at h
  exact h

/-- `be16(S, i) = S[i]·256 + S[i+1]` (R9). -/
theorem be16_toNat (S : ByteString) (i : Nat) :
    (be16 S i).toNat = (byteAt S i).toNat * 256 + (byteAt S (i + 1)).toNat := append_toNat8 _ _

/-- `be_bytes(v, 2)` as numbers (R9). -/
theorem beBytes2_eq (v : BitVec 16) :
    beBytes2 v = [BitVec.ofNat 8 (v.toNat / 256), BitVec.ofNat 8 (v.toNat % 256)] := by
  have h1 : v.extractLsb' 8 8 = BitVec.ofNat 8 (v.toNat / 256) := by
    apply BitVec.eq_of_toNat_eq; simp [BitVec.extractLsb'_toNat, Nat.shiftRight_eq_div_pow]
  have h2 : v.extractLsb' 0 8 = BitVec.ofNat 8 (v.toNat % 256) := by
    apply BitVec.eq_of_toNat_eq; simp [BitVec.extractLsb'_toNat]
  simp [beBytes2, h1, h2]

/-- The two bytes of a value join to it (R9). -/
theorem beBytes2_join (v : BitVec 16) : (v.extractLsb' 8 8 ++ v.extractLsb' 0 8 : BitVec 16) = v := by
  apply BitVec.eq_of_toNat_eq
  rw [append_toNat8]
  simp only [BitVec.extractLsb'_toNat, Nat.shiftRight_eq_div_pow]
  have := v.isLt
  omega

/-! The search for the lowest matching slot. -/

/-- A slot found is in the table at its index, matches, and no lower slot does. -/
theorem findSlot_eq_some {α : Type} {p : α → Bool} {l : List α} {k : Nat} {a : α} (h : findSlot p l = some (k, a)) :
    l[k]? = some a ∧ p a = true ∧ ∀ j b, j < k → l[j]? = some b → p b = false := by
  induction l generalizing k with
  | nil => simp [findSlot] at h
  | cons x l ih =>
    simp only [findSlot] at h
    split at h
    · cases h; simp_all
    · rename_i hx
      obtain ⟨⟨j, b⟩, hj, hjb⟩ := Option.map_eq_some_iff.mp h
      cases hjb
      obtain ⟨h1, h2, h3⟩ := ih hj
      refine ⟨by simpa using h1, h2, fun i c hi hc => ?_⟩
      cases i with
      | zero => simp at hc; subst hc; simpa using hx
      | succ i => exact h3 i c (by omega) (by simpa using hc)

/-- No slot is found exactly when none matches. -/
theorem findSlot_eq_none {α : Type} {p : α → Bool} {l : List α} : findSlot p l = none ↔ ∀ a ∈ l, p a = false := by
  induction l with
  | nil => simp [findSlot]
  | cons x l ih =>
    simp only [findSlot]
    split <;> simp_all

/-- A slot that matches with no lower match is the one found. -/
theorem findSlot_of_lowest {α : Type} {p : α → Bool} {l : List α} {k : Nat} {a : α} (hk : l[k]? = some a)
    (ha : p a = true) (hl : ∀ j b, j < k → l[j]? = some b → p b = false) : findSlot p l = some (k, a) := by
  induction l generalizing k with
  | nil => simp at hk
  | cons x l ih =>
    simp only [findSlot]
    cases k with
    | zero => simp at hk; subst hk; simp [ha]
    | succ k =>
      have hx : p x = false := hl 0 x (by omega) (by simp)
      have := ih (k := k) (by simpa using hk) (fun j b hj hb => hl (j + 1) b (by omega) (by simpa using hb))
      simp [hx, this]

/-- A slot found is a member. -/
theorem mem_of_findSlot {α : Type} {p : α → Bool} {l : List α} {k : Nat} {a : α} (h : findSlot p l = some (k, a)) :
    a ∈ l := List.mem_of_getElem? (findSlot_eq_some h).1

/-! Refusal and admission (R19). -/

theorem State.accept_of_ok {s : State} {b : Bool} (t : State) (hc : s.cfg.admitted = true) (hb : b = true) :
    s.accept b t = .next t := by simp [State.accept, hc, hb]

theorem State.accept_of_not {s : State} {b : Bool} (t : State) (h : (s.cfg.admitted && b) = false) :
    s.accept b t = .next s.refuse := by simp [State.accept, h]

/-- A command answers its result or a refusal, and nothing else. -/
theorem State.accept_eq_next {s t u : State} {b : Bool} (h : s.accept b t = .next u) :
    (s.cfg.admitted = true ∧ b = true ∧ u = t) ∨ ((s.cfg.admitted && b) = false ∧ u = s.refuse) := by
  unfold State.accept at h
  by_cases hb : (s.cfg.admitted && b) = true
  · rw [if_pos hb] at h
    simp only [Bool.and_eq_true] at hb
    injection h with h
    exact .inl ⟨hb.1, hb.2, h.symm⟩
  · rw [if_neg hb] at h
    injection h with h
    exact .inr ⟨by simpa using hb, h.symm⟩

/-! Emitting frames (R45, R147). -/

/-- Frames handed to the link change the verdict fields and the output, and nothing else. -/
theorem emitFrames_frame (dst : LinkAddr) (Fs : List ByteString) (s : State) :
    let t := (emitFrames dst Fs s).1
    t.cfg = s.cfg ∧ t.ctx = s.ctx ∧ t.reass = s.reass ∧ t.tagCtr = s.tagCtr ∧ t.stat = s.stat ∧
      t.refused = s.refused ∧ t.inputs = s.inputs := by
  induction Fs generalizing s with
  | nil => simp [emitFrames]
  | cons F Fs ih =>
    simp only [emitFrames]
    split
    · simpa using ih (s.emitFrame dst F)
    · simp

/-- Where the link accepts every frame, all are sent and all are counted. -/
theorem emitFrames_all_ok (dst : LinkAddr) (Fs : List ByteString) (s : State) (rest : List Verdict)
    (h : s.verdicts = List.replicate Fs.length .ok ++ rest) :
    emitFrames dst Fs s =
      ({ s with verdicts := rest, out := s.out ++ Fs.map fun F => .link dst F .ok }, Fs.length, true) := by
  induction Fs generalizing s with
  | nil => simp only [emitFrames]; cases s; simp_all
  | cons F Fs ih =>
    have hv : s.nextVerdict = .ok := by simp [State.nextVerdict, h, List.replicate_succ]
    have ht : (s.emitFrame dst F).verdicts = List.replicate Fs.length .ok ++ rest := by
      simp [h, List.replicate_succ]
    simp only [emitFrames, hv, ih _ ht]
    refine Prod.ext ?_ rfl
    apply State.eq_of_fields <;> simp [hv, h, List.replicate_succ]

/-- What sending frames does, whatever verdicts come (R147): every frame is accepted, or the frames before the first
`fail` are; the verdicts drawn agree with the environment's as far as it has put any. -/
theorem emitFrames_spec (dst : LinkAddr) (Fs : List ByteString) (s : State) :
    ∃ vs : List Verdict,
      (∀ (j : Nat) (v w : Verdict), vs[j]? = some v → s.verdicts[j]? = some w → v = w) ∧
      (emitFrames dst Fs s).1 =
        { s with
          verdicts := s.verdicts.drop vs.length
          draws := s.draws + (vs.length - s.verdicts.length)
          out := s.out ++ List.zipWith (fun F v => .link dst F v) Fs vs } ∧
      ((vs = List.replicate Fs.length .ok ∧ (emitFrames dst Fs s).2 = (Fs.length, true)) ∨
        ∃ k, k < Fs.length ∧ vs = List.replicate k .ok ++ [.fail] ∧ (emitFrames dst Fs s).2 = (k, false)) := by
  induction Fs generalizing s with
  | nil => exact ⟨[], by simp, by simp [emitFrames], .inl (by simp [emitFrames])⟩
  | cons F Fs ih =>
    have agree : ∀ w, s.verdicts[0]? = some w → s.nextVerdict = w := by
      intro w hw
      unfold State.nextVerdict
      cases hs : s.verdicts with
      | nil => simp [hs] at hw
      | cons a l => simpa [hs] using hw
    cases hv : s.nextVerdict with
    | ok =>
      obtain ⟨vs, h1, h2, h3⟩ := ih (s.emitFrame dst F)
      refine ⟨.ok :: vs, ?_, ?_, ?_⟩
      · intro j v w hj hw
        cases j with
        | zero => simp at hj; rw [← hj, ← hv]; exact agree w hw
        | succ j => exact h1 j v w (by simpa using hj) (by simpa using hw)
      · simp only [emitFrames, hv, h2]
        apply State.eq_of_fields <;> simp [hv]
        cases s.verdicts <;> (simp; try omega)
      · rcases h3 with ⟨hvs, hr⟩ | ⟨k, hk, hvs, hr⟩
        · exact .inl ⟨by simp [hvs, List.replicate_succ], by simp [emitFrames, hv, hr]⟩
        · exact .inr ⟨k + 1, by simpa using hk, by simp [hvs, List.replicate_succ], by simp [emitFrames, hv, hr]⟩
    | fail =>
      refine ⟨[.fail], ?_, ?_, .inr ⟨0, by simp, by simp, by simp [emitFrames, hv]⟩⟩
      · intro j v w hj hw
        cases j with
        | zero => simp at hj; rw [← hj, ← hv]; exact agree w hw
        | succ j => simp at hj
      · simp only [emitFrames, hv]
        apply State.eq_of_fields <;> simp [hv]
        cases s.verdicts <;> simp

end Sys2Proof.Machine
end

