-- ==== Sys2Proof/Safety.lean ====
section
/-!
DEFINITION. What counts as a legal state: the table invariants the spec states (10_state.md R24, R25, R26, R27) under an
admitted configuration (00_scope.md R6); and the terms the statements use: instructions run in order, and the bytes of a
transmitted fragment.
-/

namespace Sys2Proof

open Sys2Proof.Machine (Status)

/-- The statuses a command can report (R183); the rows that are no command of R183 report RECV's, or none. -/
def Instr.statuses : Instr → List Status
  | .setctx _ _ => [.ok, .outOfContexts]
  | .rmctx _ => [.ok]
  | .lookupctx _ => [.ok]
  | .encode _ _ _ => [.ok, .bufferTooSmall]
  | .fragment _ _ => [.ok, .datagramTooLarge, .linkTransmitFailure]
  | .recv _ _ _ => [.ok]
  | .tick => [.ok]
  | .flush => [.ok]
  | .reservedCmd0 => [.illegalCommand]
  | .reservedCmd9 => [.illegalCommand]
  | .reservedCmdA => [.illegalCommand]
  | .reservedCmdB => [.illegalCommand]
  | .reservedCmdC => [.illegalCommand]
  | .reservedCmdD => [.illegalCommand]
  | .reservedCmdE => [.illegalCommand]
  | .reservedCmdF => [.illegalCommand]
  | .send _ _ _ => [.ok, .bufferTooSmall, .datagramTooLarge, .linkTransmitFailure]
  | .rxUncomp _ _ _ => [.ok]
  | .rxIphc _ _ _ => [.ok]
  | .rxFrag1 _ _ _ => [.ok]
  | .rxFragN _ _ _ => [.ok]
  | .rxUnknown _ _ _ => [.ok]
  | .txFrag1 _ _ _ _ => []
  | .txFragN _ _ _ _ _ => []

/-- RECV and the rows of its five classes (R155). -/
def Instr.isReceive : Instr → Bool
  | .recv _ _ _ => true
  | .rxUncomp _ _ _ => true
  | .rxIphc _ _ _ => true
  | .rxFrag1 _ _ _ => true
  | .rxFragN _ _ _ => true
  | .rxUnknown _ _ _ => true
  | .setctx _ _ => false
  | .rmctx _ => false
  | .lookupctx _ => false
  | .encode _ _ _ => false
  | .fragment _ _ => false
  | .tick => false
  | .flush => false
  | .reservedCmd0 => false
  | .reservedCmd9 => false
  | .reservedCmdA => false
  | .reservedCmdB => false
  | .reservedCmdC => false
  | .reservedCmdD => false
  | .reservedCmdE => false
  | .reservedCmdF => false
  | .send _ _ _ => false
  | .txFrag1 _ _ _ _ => false
  | .txFragN _ _ _ _ _ => false

/-- A first fragment received from the sender: the only thing that creates an entry for it (R162, R163). -/
def Instr.startsEntry (S : LinkAddr) : Instr → Bool
  | .recv f S' _ => frameClass f == .frag1 && S' == S
  | .rxFrag1 _ S' _ => S' == S
  | .setctx _ _ => false
  | .rmctx _ => false
  | .lookupctx _ => false
  | .encode _ _ _ => false
  | .fragment _ _ => false
  | .tick => false
  | .flush => false
  | .reservedCmd0 => false
  | .reservedCmd9 => false
  | .reservedCmdA => false
  | .reservedCmdB => false
  | .reservedCmdC => false
  | .reservedCmdD => false
  | .reservedCmdE => false
  | .reservedCmdF => false
  | .send _ _ _ => false
  | .rxUncomp _ _ _ => false
  | .rxIphc _ _ _ => false
  | .rxFragN _ _ _ => false
  | .rxUnknown _ _ _ => false
  | .txFrag1 _ _ _ _ => false
  | .txFragN _ _ _ _ _ => false

end Sys2Proof

namespace Sys2Proof.Machine

/-- No two in-use slots hold the same id (R25). -/
abbrev uniqueIds (l : List CtxSlot) : Prop :=
  l.Pairwise fun a b => a.inUse = true → b.inUse = true → a.id ≠ b.id

/-- At most one valid slot per sender (R27 a). -/
abbrev uniqueSenders (l : List ReassSlot) : Prop :=
  l.Pairwise fun a b => a.valid = true → b.valid = true → a.sender ≠ b.sender

/-- A valid slot: the running length is the buffer's (R26), it is below the size (R27 b), and the ttl is between 1 and
REASS_TIMEOUT (R27 c). -/
abbrev ReassSlot.Legal (cfg : Configuration) (e : ReassSlot) : Prop :=
  e.valid = true → e.rlen.toNat = e.buf.length ∧ e.rlen.toNat < e.size.toNat ∧ 1 ≤ e.ttl.toNat ∧
    e.ttl.toNat ≤ cfg.reassTimeout

/-- The block's invariant: an admitted configuration (R6), tables of N_CTX and N_REASS slots (R24, R26), and R25 to R27. -/
abbrev State.Inv (s : State) : Prop :=
  s.cfg.admitted = true ∧ s.ctx.length = s.cfg.nCtx ∧ s.reass.length = s.cfg.nReass ∧ uniqueIds s.ctx ∧
    uniqueSenders s.reass ∧ ∀ e ∈ s.reass, ReassSlot.Legal s.cfg e

/-- Instructions run one after the other, stopping at the first fault or refusal (R58). -/
def execAll : List Instr → State → Host.Outcome State Fault Refusal
  | [], s => .next s
  | i :: is, s =>
    match exec i s with
    | .next t => execAll is t
    | .fault r => .fault r
    | .refused r => .refused r

/-- The data bytes of a fragment frame: what follows its 4-byte or 5-byte header (R85, R86). -/
def fragData (F : ByteString) : ByteString :=
  if frameClass F = .frag1 then F.drop 4 else F.drop 5

/-- The completions among what the ports presented, in order (R41). -/
def completions (out : List Output) : List Completion :=
  out.filterMap fun o => match o with
    | .completion c => some c
    | _ => none

/-- The eight bytes of a prefix, in network order (R24). -/
def prefixBytes (p : Prefix64) : ByteString :=
  [p.extractLsb' 56 8, p.extractLsb' 48 8, p.extractLsb' 40 8, p.extractLsb' 32 8, p.extractLsb' 24 8,
    p.extractLsb' 16 8, p.extractLsb' 8 8, p.extractLsb' 0 8]

/-- What is presented at the decoder or the IP output port (R58). -/
def Output.isDelivery : Output → Bool
  | .completion _ => false
  | .link _ _ _ => false
  | .ip _ => true
  | .decoder _ _ _ _ => true
  | .stats _ => false

end Sys2Proof.Machine
end

