-- ==== Sys2Proof/WellFormed.lean ====
section
/-!
DEFINITION. Well-formed instructions under a configuration: the inputs the model does not refuse (00_scope.md R19). A
link-layer address is well formed by its type (R7). The checks are defined in Machine/Operands.lean and Decode.lean.
-/

namespace Sys2Proof

/-- The operands the spec gives an instruction a meaning for: a packet that meets R121 (ENCODE, SEND), a datagram that is
not empty (FRAGMENT, R140), a frame of the row's class (the RX rows, R66), a frame the fragmenter sends (the TX rows, R145,
R146). Every other instruction is well formed for every operand. -/
def Instr.wf (c : Configuration) : Instr → Bool
  | .setctx _ _ => true
  | .rmctx _ => true
  | .lookupctx _ => true
  | .encode pkt _ _ => Machine.packetOk pkt
  | .fragment cdg _ => Machine.datagramOk cdg
  | .recv _ _ _ => true
  | .tick => true
  | .flush => true
  | .reservedCmd0 => true
  | .reservedCmd9 => true
  | .reservedCmdA => true
  | .reservedCmdB => true
  | .reservedCmdC => true
  | .reservedCmdD => true
  | .reservedCmdE => true
  | .reservedCmdF => true
  | .send pkt _ _ => Machine.packetOk pkt
  | .rxUncomp frame _ _ => frameClass frame == .uncomp
  | .rxIphc frame _ _ => frameClass frame == .iphc
  | .rxFrag1 frame _ _ => frameClass frame == .frag1
  | .rxFragN frame _ _ => frameClass frame == .fragN
  | .rxUnknown frame _ _ => frameClass frame == .unknown
  | .txFrag1 size _ data _ => Machine.txFrag1Ok c.budget size data
  | .txFragN size _ off8 data _ => Machine.txFragNOk c.budget size off8 data

end Sys2Proof
end

