-- ==== Sys2Proof/Certificates/Slice0/Obligations.lean ====
section
/-!
DEFINITION. The statements for the provers, from the numbered rules of spec/. Each docstring names the rules; the witnesses
of their hypotheses are in Sys2Proof/Tests/Slice0.lean.
-/

open Sys2Proof Sys2Proof.Machine

/-! ### Encodings (30_encoding.md) -/

/-- R90, R91, R66, R85, R86: decoding the word of a well-formed instruction gives it back, every operand at every value. -/
def Obligations.DecodeOfEncode : Prop :=
  ∀ (c : Configuration) (i : Instr), i.wf c = true → decode (encode i) = .instr i

/-- R90, R91, R94: command words written out from the spec's tables decode to the instruction they stand for, and an address of
3 bytes is rejected (R7). The bytes of the received and the transmitted frame are those of R66 and R86, but the words that
carry them, and SEND's (R93), are the model's own forms (log entries 7, 8 and 9). -/
def Obligations.SpecWordsDecode : Prop :=
  decode (.command 0x1 { id := 3, pfx := 0x20010db800010002 }) = .instr (.setctx 3 0x20010db800010002) ∧
  decode (.command 0x5 { str := [0x60, 0x00], addrA := [0xAB, 0xCD] }) = .instr (.fragment [0x60, 0x00] (.short 0xAB 0xCD)) ∧
  decode (.command 0x7 {}) = .instr .tick ∧
  decode (.command 0xB {}) = .instr .reservedCmdB ∧
  decode (.send [0x60] [0x00, 0x01] [0x00, 0x02]) = .instr (.send [0x60] (.short 0 1) (.short 0 2)) ∧
  decode (.receive [0xC7, 0xFF] [0x00, 0x01] [0x00, 0x02]) = .instr (.rxFrag1 [0xC7, 0xFF] (.short 0 1) (.short 0 2)) ∧
  decode (.transmit [0xE4, 0xD9, 0x00, 0x07, 0x0C, 0xAA] [0x00, 0x02]) =
    .instr (.txFragN 0x4D9 0x0007 0x0C [0xAA] (.short 0 2)) ∧
  decode (.command 0x5 { str := [0x60], addrA := [0x01, 0x02, 0x03] }) = .rejected .badAddressLength

/-- R65, R66: the class of a frame by the value ranges of its first byte; an empty frame is UNKNOWN. -/
def Obligations.DispatchClassByValue : Prop :=
  frameClass [] = .unknown ∧
  ∀ (d : Byte) (r : ByteString),
    frameClass (d :: r) =
      if d.toNat = 0x41 then .uncomp
      else if 0x60 ≤ d.toNat ∧ d.toNat ≤ 0x7F then .iphc
      else if 0xC0 ≤ d.toNat ∧ d.toNat ≤ 0xC7 then .frag1
      else if 0xE0 ≤ d.toNat ∧ d.toNat ≤ 0xE7 then .fragN
      else .unknown

/-- R85, R86: the fragment headers byte by byte, as numbers, for every size, tag and offset. -/
def Obligations.FragmentHeaderBytes : Prop :=
  ∀ (size : Size) (tag : Tag) (off8 : Byte) (data : ByteString),
    let head (base : Nat) : ByteString :=
      [BitVec.ofNat 8 (base + size.toNat / 256), BitVec.ofNat 8 (size.toNat % 256), BitVec.ofNat 8 (tag.toNat / 256),
        BitVec.ofNat 8 (tag.toNat % 256)]
    frag1Frame size tag data = head 0xC0 ++ data ∧ fragNFrame size tag off8 data = head 0xE0 ++ [off8] ++ data

/-- R87: a fragment header reads back to the size, tag and offset it was built from; and every frame of the two classes
with a whole header is the one built from what is read. -/
def Obligations.FragmentHeadersReadBack : Prop :=
  (∀ (size : Size) (tag : Tag) (off8 : Byte) (data : ByteString),
    frameClass (frag1Frame size tag data) = .frag1 ∧ parseFrag1 (frag1Frame size tag data) = some (size, tag, data) ∧
    frameClass (fragNFrame size tag off8 data) = .fragN ∧
      parseFragN (fragNFrame size tag off8 data) = some (size, tag, off8, data)) ∧
  (∀ (F : ByteString) (size : Size) (tag : Tag) (data : ByteString),
    frameClass F = .frag1 → parseFrag1 F = some (size, tag, data) → F = frag1Frame size tag data) ∧
  (∀ (F : ByteString) (size : Size) (tag : Tag) (off8 : Byte) (data : ByteString),
    frameClass F = .fragN → parseFragN F = some (size, tag, off8, data) → F = fragNFrame size tag off8 data)

/-- R180, R181: the numbers of the status and outcome codes. -/
def Obligations.StatusAndOutcomeNumbers : Prop :=
  [Status.ok, .outOfContexts, .bufferTooSmall, .datagramTooLarge, .corruptPacket, .linkTransmitFailure,
    .illegalCommand].map (fun c => c.code.toNat) = [0, 1, 2, 3, 4, 5, 6] ∧
  [RxOutcome.deliveredIp, .toDecoder, .fragAccepted, .reassToDecoder, .reassDeliveredIp, .dropUnknown, .dropCorrupt,
    .dropDup, .dropNoEntry, .dropOffset, .dropNoResource].map (fun c => c.code.toNat) =
    [0, 1, 2, 3, 4, 5, 6, 7, 8, 9, 10]

/-! ### The step (10_state.md R40, R46, R47) -/

/-- R40, R7: a step takes the next input; a word that decodes is executed, and a word that is rejected sets the mark and
does nothing else. The input list and a refusal as a next state are the model's (log entries 6 and 3). -/
def Obligations.StepRunsDecodedWord : Prop :=
  ∀ (s : State) (w : PortWord) (rest : List PortInput), s.inputs = .word w :: rest →
    (∀ i, decode w = .instr i → Machine.step s = exec i { s with inputs := rest }) ∧
    (∀ e, decode w = .rejected e → Machine.step s = .next { s with inputs := rest, refused := true })

/-- R46, R47, R195: with nothing presented the block holds its state; reading the statistics port presents every counter and
changes no state; a reset is taken from the inputs and leaves the link's verdicts alone. The input list and the `stats` output
are the model's (log entries 6, 17, 18), and so is that a reset and a read are done under a configuration outside R6 too (log
entry 21). -/
def Obligations.StepWithoutWord : Prop :=
  ∀ (s : State) (rest : List PortInput),
    (s.inputs = [] → Machine.step s = .next s) ∧
    (s.inputs = .readStats :: rest →
      Machine.step s = .next { s with inputs := rest, out := s.out ++ [.stats s.stat] }) ∧
    (s.inputs = .reset :: rest →
      ∃ t : State, Machine.step s = .next t ∧ t.inputs = rest ∧ t.verdicts = s.verdicts ∧ t.draws = s.draws)

/-- R200: what an asserted reset leaves. That a reset is done as usual, with no mark, under a configuration outside R6 too is
the model's choice (log entry 21). -/
def Obligations.ResetInput : Prop :=
  ∀ (s : State) (rest : List PortInput), s.inputs = .reset :: rest →
    ∃ t : State, Machine.step s = .next t ∧ t.ctx.length = s.cfg.nCtx ∧ (∀ c ∈ t.ctx, c.inUse = false) ∧
      t.reass.length = s.cfg.nReass ∧ (∀ e ∈ t.reass, e.valid = false) ∧ t.tagCtr = 0 ∧
      (∀ c, t.stat.get c = 0) ∧ t.cfg = s.cfg ∧ t.refused = s.refused ∧ t.out = s.out

/-- R35: the state after reset, as far as the spec gives values: both tables empty, the tag counter and every counter 0. -/
def Obligations.ResetState : Prop :=
  (∀ c ∈ State.reset.ctx, c.inUse = false) ∧ (∀ e ∈ State.reset.reass, e.valid = false) ∧
    State.reset.ctx.length = State.reset.cfg.nCtx ∧ State.reset.reass.length = State.reset.cfg.nReass ∧
    State.reset.tagCtr = 0 ∧ ∀ c, State.reset.stat.get c = 0

/-! ### Context table (40_context_table.md) -/

/-- R100: SETCTX overwrites the slot that holds the id, else takes the lowest free slot, else completes with OutOfContexts
and writes nothing; in every case the rest of the state is unchanged. -/
def Obligations.SetctxResult : Prop :=
  ∀ (s : State) (id : CtxId) (pfx : Prefix64), s.cfg.admitted = true →
    (∀ (k : Nat) (c : CtxSlot), s.ctx[k]? = some c → c.inUse = true → c.id = id →
      (∀ (j : Nat) (d : CtxSlot), j < k → s.ctx[j]? = some d → ¬(d.inUse = true ∧ d.id = id)) →
      exec (.setctx id pfx) s =
        .next { s with ctx := s.ctx.set k { c with pfx := pfx }, out := s.out ++ [.completion ⟨.ok, none, .none⟩] }) ∧
    ((∀ d ∈ s.ctx, ¬(d.inUse = true ∧ d.id = id)) →
      (∀ (k : Nat) (c : CtxSlot), s.ctx[k]? = some c → c.inUse = false →
        (∀ (j : Nat) (d : CtxSlot), j < k → s.ctx[j]? = some d → d.inUse = true) →
        exec (.setctx id pfx) s =
          .next { s with
            ctx := s.ctx.set k { inUse := true, id := id, pfx := pfx }
            out := s.out ++ [.completion ⟨.ok, none, .none⟩] }) ∧
      ((∀ d ∈ s.ctx, d.inUse = true) →
        exec (.setctx id pfx) s = .next { s with out := s.out ++ [.completion ⟨.outOfContexts, none, .none⟩] }))

/-- R101: RMCTX frees the slot that holds the id and changes nothing else; it always completes with OK. -/
def Obligations.RmctxResult : Prop :=
  ∀ (s : State) (id : CtxId), s.cfg.admitted = true →
    ∃ l : List CtxSlot, exec (.rmctx id) s = .next { s with ctx := l, out := s.out ++ [.completion ⟨.ok, none, .none⟩] } ∧
      l.length = s.ctx.length ∧
      ∀ (k : Nat) (c : CtxSlot), s.ctx[k]? = some c →
        l[k]? = some (if c.inUse = true ∧ c.id = id then { c with inUse := false } else c)

/-- R102: LOOKUPCTX answers the prefix of the lowest in-use slot with the id, or found 0 and prefix 0; it writes nothing. -/
def Obligations.LookupctxResult : Prop :=
  ∀ (s : State) (id : CtxId), s.cfg.admitted = true →
    (∀ (k : Nat) (c : CtxSlot), s.ctx[k]? = some c → c.inUse = true → c.id = id →
      (∀ (j : Nat) (d : CtxSlot), j < k → s.ctx[j]? = some d → ¬(d.inUse = true ∧ d.id = id)) →
      exec (.lookupctx id) s = .next { s with out := s.out ++ [.completion ⟨.ok, none, .context true c.pfx⟩] }) ∧
    ((∀ d ∈ s.ctx, ¬(d.inUse = true ∧ d.id = id)) →
      exec (.lookupctx id) s = .next { s with out := s.out ++ [.completion ⟨.ok, none, .context false 0⟩] })

/-- R100, R101, R102 together: what is set is read back, what is removed is not found, and a lookup of any other id answers
as before. -/
def Obligations.ContextReadBack : Prop :=
  ∀ (s t : State) (id : CtxId), s.cfg.admitted = true →
    (∀ pfx, exec (.setctx id pfx) s = .next t → t.out = s.out ++ [.completion ⟨.ok, none, .none⟩] →
      exec (.lookupctx id) t = .next { t with out := t.out ++ [.completion ⟨.ok, none, .context true pfx⟩] } ∧
      ∀ id' r, id' ≠ id → exec (.lookupctx id') s = .next { s with out := s.out ++ [r] } →
        exec (.lookupctx id') t = .next { t with out := t.out ++ [r] }) ∧
    (exec (.rmctx id) s = .next t →
      exec (.lookupctx id) t = .next { t with out := t.out ++ [.completion ⟨.ok, none, .context false 0⟩] } ∧
      ∀ id' r, id' ≠ id → exec (.lookupctx id') s = .next { s with out := s.out ++ [r] } →
        exec (.lookupctx id') t = .next { t with out := t.out ++ [r] })

/-- R103: `lookup_by_prefix` answers the id of the lowest in-use slot whose prefix is, byte for byte, the first 8 bytes of
the address, and None when there is none. -/
def Obligations.PrefixLookupLowestSlot : Prop :=
  ∀ (ctx : List CtxSlot) (A : ByteString), A.length = 16 →
    (∀ (k : Nat) (c : CtxSlot), ctx[k]? = some c → c.inUse = true → prefixBytes c.pfx = A.take 8 →
      (∀ (j : Nat) (d : CtxSlot), j < k → ctx[j]? = some d → ¬(d.inUse = true ∧ prefixBytes d.pfx = A.take 8)) →
      lookupByPrefix ctx A = some c.id) ∧
    ((∀ d ∈ ctx, ¬(d.inUse = true ∧ prefixBytes d.pfx = A.take 8)) → lookupByPrefix ctx A = none)

/-! ### Address modes (41_address_mode.md) -/

/-- R76, R110 to R114: the mode is 3 exactly when the IID is the one derived from the link-layer address, else 2 exactly
for the short pattern; the inline bytes have the mode's length; and with the prefix they give the whole address back.
The U/L bit of the derived IID (R110) is general knowledge, log entry 14. -/
def Obligations.UnicastAddressRebuilds : Prop :=
  ∀ (A : ByteString) (L : LinkAddr), A.length = 16 →
    let mode := ucastMode A L
    let inl := ucastInline A mode
    mode =
      (if A.drop 8 = derivedIid L then 3#2
       else if (A.drop 8).take 6 = [0x00, 0x00, 0x00, 0xFF, 0xFE, 0x00] then 2#2 else 1#2) ∧
    inl.length = (if mode = 3#2 then 0 else if mode = 2#2 then 2 else 8) ∧
    A = A.take 8 ++
      (if mode = 3#2 then derivedIid L
       else if mode = 2#2 then [0x00, 0x00, 0x00, 0xFF, 0xFE, 0x00] ++ inl else inl)

/-- R110: the IID derived from a link-layer address, by its length (the U/L bit is general knowledge, log entry 14). -/
def Obligations.DerivedIidByLength : Prop :=
  ∀ L : LinkAddr,
    (derivedIid L).length = 8 ∧
    (L.toBytes.length = 2 → derivedIid L = [0x00, 0x00, 0x00, 0xFF, 0xFE, 0x00] ++ L.toBytes) ∧
    (L.toBytes.length = 6 → derivedIid L =
      [byteAt L.toBytes 0 ^^^ 0x02] ++ slice L.toBytes 1 3 ++ [0xFF, 0xFE] ++ slice L.toBytes 3 6) ∧
    (L.toBytes.length = 8 → derivedIid L = [byteAt L.toBytes 0 ^^^ 0x02] ++ slice L.toBytes 1 8)

/-- R77, R113, R115: the multicast mode is the first whose zero pattern holds, the inline bytes have the mode's length (1,
4, 6, 16), and they give the whole address back (general-knowledge patterns, log entry 14). -/
def Obligations.MulticastAddressRebuilds : Prop :=
  ∀ M : ByteString, M.length = 16 → isMulticast M = true →
    let mode := mcastMode M
    let inl := mcastInline M mode
    let zeros := fun n : Nat => List.replicate n 0x00#8
    mode =
      (if byteAt M 1 = 0x02 ∧ slice M 2 15 = zeros 13 then 3#2
       else if slice M 2 13 = zeros 11 then 2#2
       else if slice M 2 11 = zeros 9 then 1#2 else 0#2) ∧
    inl.length = (if mode = 3#2 then 1 else if mode = 2#2 then 4 else if mode = 1#2 then 6 else 16) ∧
    M =
      (if mode = 3#2 then [0xFF, 0x02] ++ zeros 13 ++ inl
       else if mode = 2#2 then [0xFF] ++ inl.take 1 ++ zeros 11 ++ inl.drop 1
       else if mode = 1#2 then [0xFF] ++ inl.take 1 ++ zeros 9 ++ inl.drop 1 else inl)

/-! ### The encoder (42_iphc_encoder.md) -/

/-- R116, R117, R124, R125: which way an address is compressed: link-local first, then a context, else 16 bytes inline with
mode 0; a multicast destination never uses a context. That a multicast address starts with 0xFF (R117) is general knowledge,
log entry 14. -/
def Obligations.AddressPaths : Prop :=
  ∀ (ctx : List CtxSlot) (A : ByteString) (L : LinkAddr), A.length = 16 →
    let linkLocal := A.take 8 = [0xFE, 0x80, 0, 0, 0, 0, 0, 0]
    let mode := ucastMode A L
    (linkLocal → srcPath ctx A L = { m := 0, ac := 0, mode := mode, ctxId := none, bytes := ucastInline A mode }) ∧
    (¬linkLocal → ∀ id, lookupByPrefix ctx A = some id →
      srcPath ctx A L = { m := 0, ac := 1, mode := mode, ctxId := some id, bytes := ucastInline A mode }) ∧
    (¬linkLocal → lookupByPrefix ctx A = none →
      srcPath ctx A L = { m := 0, ac := 0, mode := 0, ctxId := none, bytes := A }) ∧
    (byteAt A 0 = 0xFF → dstPath ctx A L =
      { m := 1, ac := 0, mode := mcastMode A, ctxId := none, bytes := mcastInline A (mcastMode A) }) ∧
    (byteAt A 0 ≠ 0xFF → dstPath ctx A L = srcPath ctx A L)

/-- R120, R134: where the packet is well formed and the buffer holds it, ENCODE completes with OK, the compressed datagram
and the replaced count, and writes no state. The datagram's layout is general knowledge in part, log entry 14. -/
def Obligations.EncodeResult : Prop :=
  ∀ (s : State) (pkt : ByteString) (a b : LinkAddr), s.cfg.admitted = true → packetOk pkt = true →
    pkt.length ≤ s.cfg.outCap →
    exec (.encode pkt a b) s =
      .next { s with
        out := s.out ++ [.completion ⟨.ok, none,
          .encoded (compress s.ctx pkt a b) (if byteAt pkt 6 = 17 then 48 else 40)⟩] }

/-- R121, R19, R122: the precondition byte by byte; a packet outside it is refused, and one that the buffer cannot hold fails
with BufferTooSmall, nothing else written. That a refusal is a next state with the mark set is the model's reading, log entry
3. -/
def Obligations.EncodeRefusalAndCapacity : Prop :=
  ∀ (s : State) (pkt : ByteString) (a b : LinkAddr), s.cfg.admitted = true →
    let be := fun i : Nat => (byteAt pkt i).toNat * 256 + (byteAt pkt (i + 1)).toNat
    let pre := 40 ≤ pkt.length ∧ (byteAt pkt 0).toNat / 16 = 6 ∧ be 4 = pkt.length - 40 ∧
      (byteAt pkt 6 = 17 → 48 ≤ pkt.length ∧ be 44 = pkt.length - 40)
    (¬pre → exec (.encode pkt a b) s = .next { s with refused := true }) ∧
    (pre → s.cfg.outCap < pkt.length →
      exec (.encode pkt a b) s = .next { s with out := s.out ++ [.completion ⟨.bufferTooSmall, none, .none⟩] })

/-- R127, R73: the traffic class and flow label codes and inline bytes, as numbers (general-knowledge layout, log entry 14). -/
def Obligations.TrafficClassFlowLabelBytes : Prop :=
  ∀ (tc : BitVec 8) (fl : BitVec 20),
    let T := tc.toNat
    let F := fl.toNat
    let b := BitVec.ofNat 8
    tfEnc tc fl =
      if F = 0 ∧ T = 0 then (3#2, [])
      else if F = 0 then (2#2, [b (T % 4 * 64 + T / 4)])
      else if T / 4 = 0 then (1#2, [b (T % 4 * 64 + F / 65536), b (F / 256 % 256), b (F % 256)])
      else (0#2, [b (T % 4 * 64 + T / 4), b (F / 65536), b (F / 256 % 256), b (F % 256)])

/-- R129, R128: the hop limit and next header codes and inline bytes (general-knowledge codes, log entry 14). -/
def Obligations.HopLimitNextHeaderCodes : Prop :=
  ∀ v : Byte,
    hlimEnc v =
      (if v.toNat = 1 then (1#2, []) else if v.toNat = 64 then (2#2, []) else if v.toNat = 255 then (3#2, [])
       else (0#2, [v])) ∧
    nhEnc v = if v.toNat = 17 then (1#1, []) else (0#1, [v])

/-- R131, R78 to R80: the compressed UDP header, by the ranges of the ports; the checksum is copied and the length left out
(general-knowledge layout, log entry 14). -/
def Obligations.UdpHeaderBytes : Prop :=
  ∀ pkt : ByteString,
    let sp := (byteAt pkt 40).toNat * 256 + (byteAt pkt 41).toNat
    let dp := (byteAt pkt 42).toNat * 256 + (byteAt pkt 43).toNat
    let inr := fun p : Nat => 0xF0B0 ≤ p ∧ p ≤ 0xF0BF
    udpEnc pkt =
      (if inr sp ∧ inr dp then [0xF3, BitVec.ofNat 8 (sp % 16 * 16 + dp % 16)]
       else if inr sp then [0xF2, byteAt pkt 41, byteAt pkt 42, byteAt pkt 43]
       else if inr dp then [0xF1, byteAt pkt 40, byteAt pkt 41, byteAt pkt 43]
       else [0xF0, byteAt pkt 40, byteAt pkt 41, byteAt pkt 42, byteAt pkt 43]) ++ [byteAt pkt 46, byteAt pkt 47]

/-- R68, R69, R70, R123, R130, R133: the fields of the first two bytes of a compressed datagram, and everything after them in
its order: the context-extension byte where one of the addresses uses a context (R72, R126), the inline fields, the address
bytes, the compressed UDP header and the payload. General-knowledge layouts, log entry 14. -/
def Obligations.IphcByteFields : Prop :=
  ∀ (ctx : List CtxSlot) (pkt : ByteString) (a b : LinkAddr),
    let D := compress ctx pkt a b
    let b0 := byteAt D 0
    let b1 := byteAt D 1
    let sp := srcPath ctx (slice pkt 8 24) a
    let dp := dstPath ctx (slice pkt 24 40) b
    frameClass D = .iphc ∧ b0.extractLsb' 3 2 = (tfEnc (pktTC pkt) (pktFL pkt)).1 ∧
    b0.extractLsb' 2 1 = (if byteAt pkt 6 = 17 then 1#1 else 0#1) ∧ b0.extractLsb' 0 2 = (hlimEnc (byteAt pkt 7)).1 ∧
    b1.extractLsb' 6 1 = sp.ac ∧ b1.extractLsb' 4 2 = sp.mode ∧ b1.extractLsb' 3 1 = dp.m ∧
    b1.extractLsb' 2 1 = dp.ac ∧ b1.extractLsb' 0 2 = dp.mode ∧
    (b1.extractLsb' 7 1 = if sp.ctxId = none ∧ dp.ctxId = none then 0#1 else 1#1) ∧
    D.drop 2 =
      (if b1.extractLsb' 7 1 = 1#1 then
        [BitVec.ofNat 8 ((sp.ctxId.getD 0).toNat * 16 + (dp.ctxId.getD 0).toNat)] else []) ++
      (tfEnc (pktTC pkt) (pktFL pkt)).2 ++ (nhEnc (byteAt pkt 6)).2 ++ (hlimEnc (byteAt pkt 7)).2 ++ sp.bytes ++
      dp.bytes ++ (if byteAt pkt 6 = 17 then udpEnc pkt ++ pkt.drop 48 else pkt.drop 40)

/-- R82, R84, R135: the header length read from the datagram's own bytes is where the payload begins; it is at most 40, or
46 with UDP; and the datagram is never longer than the packet. The places of the fields and the multicast lengths
(R69, R70, R77, R78) are general knowledge, log entry 14. -/
def Obligations.HeaderLengthReadBack : Prop :=
  ∀ (ctx : List CtxSlot) (pkt : ByteString) (a b : LinkAddr), packetOk pkt = true →
    let D := compress ctx pkt a b
    let replaced := if byteAt pkt 6 = 17 then 48 else 40
    D.drop (iphcHeaderLength D) = pkt.drop replaced ∧ D.length = iphcHeaderLength D + (pkt.length - replaced) ∧
    iphcHeaderLength D ≤ (if byteAt pkt 6 = 17 then 46 else 40) ∧ D.length ≤ pkt.length

/-- R83: the encodings the block never emits. The places of the bits and the NHC byte's range (R69, R70, R78) are general
knowledge, log entry 14. -/
def Obligations.EncoderNeverEmits : Prop :=
  ∀ (ctx : List CtxSlot) (pkt : ByteString) (a b : LinkAddr), packetOk pkt = true →
    let D := compress ctx pkt a b
    let b1 := byteAt D 1
    let nh := (byteAt D 0).extractLsb' 2 1
    let nhc := byteAt D (iphcBaseLength D)
    ¬(b1.extractLsb' 6 1 = 1#1 ∧ b1.extractLsb' 4 2 = 0#2) ∧ ¬(b1.extractLsb' 2 1 = 1#1 ∧ b1.extractLsb' 0 2 = 0#2) ∧
    ¬(b1.extractLsb' 3 1 = 1#1 ∧ b1.extractLsb' 2 1 = 1#1) ∧
    (nh = 1#1 → byteAt pkt 6 = 17 ∧ 0xF0 ≤ nhc.toNat ∧ nhc.toNat ≤ 0xF3)

/-! ### The fragmenter (43_fragmenter.md) -/

/-- R140, R19, R141, R148: an empty datagram is refused; one of more than 2047 bytes is rejected with DatagramTooLarge and no
frame. The refusal as a next state is log entry 3, and `sent 0` beside the status (R148 against R180) is log entry 20. -/
def Obligations.FragmentRejections : Prop :=
  ∀ (s : State) (cdg : ByteString) (d : LinkAddr), s.cfg.admitted = true →
    (cdg = [] → exec (.fragment cdg d) s = .next { s with refused := true }) ∧
    (2047 < cdg.length →
      exec (.fragment cdg d) s = .next { s with out := s.out ++ [.completion ⟨.datagramTooLarge, none, .sent 0⟩] })

/-- R142: a datagram that fits the budget goes out as one frame without a header; the status follows the verdict, which is
the environment's next or free; the tag counter is unchanged. -/
def Obligations.FragmentSingleFrame : Prop :=
  ∀ (s : State) (cdg : ByteString) (d : LinkAddr), s.cfg.admitted = true → cdg ≠ [] → cdg.length ≤ 2047 →
    cdg.length ≤ s.cfg.budget →
    ∃ v : Verdict, (∀ w ws, s.verdicts = w :: ws → v = w) ∧
      exec (.fragment cdg d) s =
        .next { s with
          verdicts := s.verdicts.tail
          draws := s.draws + (if s.verdicts = [] then 1 else 0)
          out := s.out ++ [.link d cdg v, .completion
            (match v with
              | .ok => ⟨.ok, none, .sent 1⟩
              | .fail => ⟨.linkTransmitFailure, none, .sent 0⟩)] }

/-- R147, R148, R144: whatever verdicts the link gives, the frames go in order up to the first `fail`; later ones are not
sent, the status is LinkTransmitFailure with the number accepted before, and the tag stays consumed. -/
def Obligations.FragmentEmission : Prop :=
  ∀ (s : State) (cdg : ByteString) (d : LinkAddr), s.cfg.admitted = true → s.cfg.budget < cdg.length →
    cdg.length ≤ 2047 →
    let Fs := fragFrames s.cfg.budget s.tagCtr cdg
    ∃ (vs : List Verdict) (c : Completion),
      (∀ (j : Nat) (v w : Verdict), vs[j]? = some v → s.verdicts[j]? = some w → v = w) ∧
      exec (.fragment cdg d) s =
        .next { s with
          tagCtr := s.tagCtr + 1
          verdicts := s.verdicts.drop vs.length
          draws := s.draws + (vs.length - s.verdicts.length)
          out := s.out ++ List.zipWith (fun F v => .link d F v) Fs vs ++ [.completion c] } ∧
      ((vs = List.replicate Fs.length .ok ∧ c = ⟨.ok, none, .sent Fs.length⟩) ∨
        ∃ k, k < Fs.length ∧ vs = List.replicate k .ok ++ [.fail] ∧ c = ⟨.linkTransmitFailure, none, .sent k⟩)

/-- R145, R146, R150: the frames of a fragmented datagram: the first is a FRAG1 frame with `floor8(B − 4)` bytes, the j-th
after it a FRAGN frame at offset `n1 + j · kN`, a multiple of 8 and at most 2040; all carry the datagram's length and the
tag; none is longer than B; their data, in order, are the datagram. -/
def Obligations.FragmentFramesCarryDatagram : Prop :=
  ∀ (B : Nat) (tag : Tag) (cdg : ByteString), 13 ≤ B → B < cdg.length → cdg.length ≤ 2047 →
    let size : Size := BitVec.ofNat 11 cdg.length
    let n1 := (B - 4) / 8 * 8
    let kN := (B - 5) / 8 * 8
    let Fs := fragFrames B tag cdg
    ((Fs.map fragData).flatten = cdg) ∧ (∀ F ∈ Fs, F.length ≤ B) ∧
    Fs[0]? = some (frag1Frame size tag (cdg.take n1)) ∧
    ∀ (j : Nat) (F : ByteString), Fs[j + 1]? = some F →
      ∃ data : ByteString, F = fragNFrame size tag (BitVec.ofNat 8 ((n1 + j * kN) / 8)) data ∧ 8 ∣ n1 + j * kN ∧
        n1 + j * kN ≤ 2040 ∧ data ≠ [] ∧ (j + 2 < Fs.length → data.length = kN)

/-- R149: how many frames a fragmented datagram needs. -/
def Obligations.FragmentCount : Prop :=
  ∀ (B : Nat) (tag : Tag) (cdg : ByteString), 13 ≤ B → B < cdg.length → cdg.length ≤ 2047 →
    let kN := (B - 5) / 8 * 8
    let R := cdg.length - (B - 4) / 8 * 8
    (fragFrames B tag cdg).length =
      if R ≤ B - 5 then 2 else 2 + (R - (B - 5) + kN - 1) / kN

/-- R151, R93, R121, R122, R180: SEND is refused where ENCODE is (as a next state, log entry 3); a packet the buffer cannot hold
gives BufferTooSmall alone, and nothing is sent (no count beside it: log entry 9); otherwise it is FRAGMENT of ENCODE's
datagram, and completes with OK and one frame when that fits the budget and the link accepts it. -/
def Obligations.SendIsEncodeThenFragment : Prop :=
  ∀ (s : State) (pkt : ByteString) (a b : LinkAddr), s.cfg.admitted = true →
    let D := compress s.ctx pkt a b
    (packetOk pkt = false → exec (.send pkt a b) s = .next { s with refused := true }) ∧
    (packetOk pkt = true → s.cfg.outCap < pkt.length →
      exec (.send pkt a b) s = .next { s with out := s.out ++ [.completion ⟨.bufferTooSmall, none, .none⟩] }) ∧
    (packetOk pkt = true → pkt.length ≤ s.cfg.outCap →
      exec (.send pkt a b) s = exec (.fragment D b) s ∧
      ∀ vs, pkt.length ≤ 2047 → pkt.length ≤ s.cfg.budget → s.verdicts = .ok :: vs →
        exec (.send pkt a b) s =
          .next { s with
            verdicts := vs
            out := s.out ++ [.link b D .ok, .completion ⟨.ok, none, .sent 1⟩] })

/-- R145, R146, R147: a first fragment or a continuation the fragmenter sends goes to the link with its header, and nothing
else changes; the rows as instructions are the model's (log entry 8). -/
def Obligations.TransmitRowsEmitOneFrame : Prop :=
  ∀ (s : State) (size : Size) (tag : Tag) (off8 : Byte) (data : ByteString) (d : LinkAddr), s.cfg.admitted = true →
    let B := s.cfg.budget
    let off := off8.toNat * 8
    ∃ v : Verdict, (∀ w ws, s.verdicts = w :: ws → v = w) ∧
      (B < size.toNat → data.length = (B - 4) / 8 * 8 →
        exec (.txFrag1 size tag data d) s =
          .next { s with
            verdicts := s.verdicts.tail
            draws := s.draws + (if s.verdicts = [] then 1 else 0)
            out := s.out ++ [.link d (frag1Frame size tag data) v] }) ∧
      (B < size.toNat → (B - 4) / 8 * 8 ≤ off → off < size.toNat →
        data.length = (if size.toNat - off ≤ B - 5 then size.toNat - off else (B - 5) / 8 * 8) →
        exec (.txFragN size tag off8 data d) s =
          .next { s with
            verdicts := s.verdicts.tail
            draws := s.draws + (if s.verdicts = [] then 1 else 0)
            out := s.out ++ [.link d (fragNFrame size tag off8 data) v] })

/-! ### Receiving (44_dispatch_reassembly.md) -/

/-- R155: RECV is the class rule of its frame, and always completes with status OK and an outcome. -/
def Obligations.RecvRunsItsClass : Prop :=
  ∀ (s : State) (f : ByteString) (S R : LinkAddr),
    exec (.recv f S R) s = exec (classInstr (frameClass f) f S R) s ∧
    (s.cfg.admitted = true →
      ∃ (t : State) (o : RxOutcome) (l : List Output), exec (.recv f S R) s = .next t ∧
        t.out = s.out ++ l ++ [.completion ⟨.ok, some o, .none⟩] ∧ completions l = [])

/-- R156, R157, R159: a single uncompressed frame goes to the IP port without its first byte, a compressed one whole to the
decoder with its length, any other byte or an empty frame is dropped and counted; nothing else changes. -/
def Obligations.SingleFrameResults : Prop :=
  ∀ (s : State) (d : Byte) (r : ByteString) (S R : LinkAddr), s.cfg.admitted = true →
    let rx := fun (l : List Output) (o : RxOutcome) => s.out ++ l ++ [.completion ⟨.ok, some o, .none⟩]
    exec (.rxUncomp (0x41 :: r) S R) s = .next { s with out := rx [.ip r] .deliveredIp } ∧
    (0x60 ≤ d.toNat → d.toNat ≤ 0x7F →
      exec (.rxIphc (d :: r) S R) s =
        .next { s with out := rx [.decoder (d :: r) S R (r.length + 1)] .toDecoder }) ∧
    (∀ f, frameClass f = .unknown →
      exec (.rxUnknown f S R) s =
        .next { s with
          stat := { s.stat with rxUnknown := s.stat.rxUnknown + 1 }
          out := rx [] .dropUnknown })

/-- R160: a FRAG1 frame with a truncated header, size 0, or more data than its size is dropped as corrupt; only the counter
changes, and no entry is touched. -/
def Obligations.FirstFragmentCorrupt : Prop :=
  ∀ (s : State) (f : ByteString) (S R : LinkAddr), s.cfg.admitted = true → frameClass f = .frag1 →
    let size := (byteAt f 0).toNat % 8 * 256 + (byteAt f 1).toNat
    f.length < 4 ∨ size = 0 ∨ size < f.length - 4 →
    exec (.rxFrag1 f S R) s =
      .next { s with
        stat := { s.stat with rxCorrupt := s.stat.rxCorrupt + 1 }
        out := s.out ++ [.completion ⟨.ok, some .dropCorrupt, .none⟩] }

/-- R161, R162: a FRAG1 frame that parses: a duplicate is dropped and the entry untouched; a differing one replaces the
sender's entry; with no entry the lowest free slot takes a new one; with none free it is dropped. The two that make an entry
are here for data shorter than the size; FirstFragmentCompletes has the others. -/
def Obligations.FirstFragmentTable : Prop :=
  ∀ (s : State) (size : Size) (tag : Tag) (data : ByteString) (S R : LinkAddr), s.cfg.admitted = true →
    size ≠ 0 → data.length ≤ size.toNat →
    let f := frag1Frame size tag data
    let done := fun o : RxOutcome => s.out ++ [.completion ⟨.ok, some o, .none⟩]
    let new : ReassSlot :=
      { valid := true, sender := S, tag := tag, size := size, buf := data, rlen := BitVec.ofNat 11 data.length,
        ttl := BitVec.ofNat 8 s.cfg.reassTimeout }
    (∀ (k : Nat) (e : ReassSlot), s.reass[k]? = some e → e.valid = true → e.sender = S →
      (∀ (j : Nat) (d : ReassSlot), j < k → s.reass[j]? = some d → ¬(d.valid = true ∧ d.sender = S)) →
      (e.tag = tag ∧ e.size = size → exec (.rxFrag1 f S R) s =
        .next { s with stat := { s.stat with rxDupFrag1 := s.stat.rxDupFrag1 + 1 }, out := done .dropDup }) ∧
      (¬(e.tag = tag ∧ e.size = size) → data.length < size.toNat → exec (.rxFrag1 f S R) s =
        .next { s with
          reass := s.reass.set k new
          stat := { s.stat with reassReplaced := s.stat.reassReplaced + 1 }
          out := done .fragAccepted })) ∧
    ((∀ d ∈ s.reass, ¬(d.valid = true ∧ d.sender = S)) →
      (∀ (k : Nat) (e : ReassSlot), s.reass[k]? = some e → e.valid = false →
        (∀ (j : Nat) (d : ReassSlot), j < k → s.reass[j]? = some d → d.valid = true) → data.length < size.toNat →
        exec (.rxFrag1 f S R) s = .next { s with reass := s.reass.set k new, out := done .fragAccepted }) ∧
      ((∀ d ∈ s.reass, d.valid = true) →
        exec (.rxFrag1 f S R) s =
          .next { s with
            stat := { s.stat with rxNoResource := s.stat.rxNoResource + 1 }, out := done .dropNoResource }))

/-- R162, R165, R167: a FRAG1 frame that carries the whole datagram completes at once, in a free slot or in place of the
sender's entry: the slot is free again, the completion is counted, and the datagram goes where its first byte says. -/
def Obligations.FirstFragmentCompletes : Prop :=
  ∀ (s : State) (size : Size) (tag : Tag) (data : ByteString) (S R : LinkAddr) (k : Nat) (e : ReassSlot),
    s.cfg.admitted = true → data.length = size.toNat → size ≠ 0 → s.reass[k]? = some e →
    (∀ (j : Nat) (d : ReassSlot), j < k → s.reass[j]? = some d → ¬(d.valid = true ∧ d.sender = S)) →
    (if e.valid = true then e.sender = S ∧ ¬(e.tag = tag ∧ e.size = size)
     else (∀ d ∈ s.reass, ¬(d.valid = true ∧ d.sender = S)) ∧
       ∀ (j : Nat) (d : ReassSlot), j < k → s.reass[j]? = some d → d.valid = true) →
    let old := if e.valid = true then s.stat.add .reassReplaced 1 else s.stat
    ∃ e' : ReassSlot, e'.valid = false ∧
      exec (.rxFrag1 (frag1Frame size tag data) S R) s =
        .next { s with
          reass := s.reass.set k e'
          stat :=
            if frameClass data = .iphc ∨ frameClass data = .uncomp then old.add .reassComplete 1
            else (old.add .reassComplete 1).add .rxCorrupt 1
          out := s.out ++
            (if frameClass data = .iphc then
              [.decoder data S R size.toNat, .completion ⟨.ok, some .reassToDecoder, .none⟩]
             else if frameClass data = .uncomp then
              [.ip (data.drop 1), .completion ⟨.ok, some .reassDeliveredIp, .none⟩]
             else [.completion ⟨.ok, some .dropCorrupt, .none⟩]) }

/-- R163: a FRAGN frame with a truncated header is corrupt; one that matches no entry by sender, tag and size is dropped and
touches no entry. -/
def Obligations.ContinuationNoEntry : Prop :=
  ∀ (s : State) (S R : LinkAddr), s.cfg.admitted = true →
    let done := fun o : RxOutcome => s.out ++ [.completion ⟨.ok, some o, .none⟩]
    (∀ f, frameClass f = .fragN → f.length < 5 →
      exec (.rxFragN f S R) s =
        .next { s with
          stat := { s.stat with rxCorrupt := s.stat.rxCorrupt + 1 }
          out := done .dropCorrupt }) ∧
    (∀ (size : Size) (tag : Tag) (off8 : Byte) (data : ByteString),
      (∀ d ∈ s.reass, d.valid = true → d.sender = S → ¬(d.tag = tag ∧ d.size = size)) →
      exec (.rxFragN (fragNFrame size tag off8 data) S R) s =
        .next { s with
          stat := { s.stat with rxNoEntry := s.stat.rxNoEntry + 1 }
          out := done .dropNoEntry })

/-- R164, R166: a continuation of the sender's entry whose offset is not the running length, or whose data pass the size,
is dropped and its entry discarded. -/
def Obligations.ContinuationDiscardsEntry : Prop :=
  ∀ (s : State) (k : Nat) (e : ReassSlot) (off8 : Byte) (data : ByteString) (R : LinkAddr), s.cfg.admitted = true →
    s.reass[k]? = some e → e.valid = true →
    (∀ (j : Nat) (d : ReassSlot), j < k → s.reass[j]? = some d → ¬(d.valid = true ∧ d.sender = e.sender)) →
    (off8.toNat * 8 ≠ e.rlen.toNat ∨ e.size.toNat < e.rlen.toNat + data.length) →
    ∃ e' : ReassSlot, e'.valid = false ∧
      exec (.rxFragN (fragNFrame e.size e.tag off8 data) e.sender R) s =
        .next { s with
          reass := s.reass.set k e'
          stat :=
            if off8.toNat * 8 ≠ e.rlen.toNat then
              { s.stat with rxOffsetMismatch := s.stat.rxOffsetMismatch + 1 }
            else { s.stat with rxCorrupt := s.stat.rxCorrupt + 1 }
          out := s.out ++ [.completion ⟨.ok, some
            (if off8.toNat * 8 ≠ e.rlen.toNat then .dropOffset else .dropCorrupt), .none⟩] }

/-- R168, R165, R167: a continuation at the running length is appended; the entry waits while it is short of its size, and
otherwise completes: its slot is free, the completion is counted, and the datagram goes where its first byte says. The ttl
is not written (R169). -/
def Obligations.ContinuationAccepted : Prop :=
  ∀ (s : State) (k : Nat) (e : ReassSlot) (off8 : Byte) (data : ByteString) (R : LinkAddr), s.cfg.admitted = true →
    s.reass[k]? = some e → e.valid = true →
    (∀ (j : Nat) (d : ReassSlot), j < k → s.reass[j]? = some d → ¬(d.valid = true ∧ d.sender = e.sender)) →
    off8.toNat * 8 = e.rlen.toNat →
    let f := fragNFrame e.size e.tag off8 data
    let D := e.buf ++ data
    (e.rlen.toNat + data.length < e.size.toNat →
      exec (.rxFragN f e.sender R) s =
        .next { s with
          reass := s.reass.set k { e with buf := D, rlen := BitVec.ofNat 11 (e.rlen.toNat + data.length) }
          out := s.out ++ [.completion ⟨.ok, some .fragAccepted, .none⟩] }) ∧
    (e.rlen.toNat + data.length = e.size.toNat →
      ∃ e' : ReassSlot, e'.valid = false ∧
        exec (.rxFragN f e.sender R) s =
          .next { s with
            reass := s.reass.set k e'
            stat :=
              if frameClass D = .iphc ∨ frameClass D = .uncomp then s.stat.add .reassComplete 1
              else (s.stat.add .reassComplete 1).add .rxCorrupt 1
            out := s.out ++
              (if frameClass D = .iphc then
                [.decoder D e.sender R D.length, .completion ⟨.ok, some .reassToDecoder, .none⟩]
               else if frameClass D = .uncomp then
                [.ip (D.drop 1), .completion ⟨.ok, some .reassDeliveredIp, .none⟩]
               else [.completion ⟨.ok, some .dropCorrupt, .none⟩]) })

/-- R170: TICK decrements the ttl of every valid entry, removes and counts those that reach 0, and changes nothing else. -/
def Obligations.TickResult : Prop :=
  ∀ s : State, s.cfg.admitted = true → (∀ e ∈ s.reass, e.valid = true → 1 ≤ e.ttl.toNat) →
    ∃ l : List ReassSlot, exec .tick s =
        .next { s with
          reass := l
          stat := { s.stat with
            reassTimeout := s.stat.reassTimeout +
              BitVec.ofNat 32 (s.reass.countP fun e => e.valid && e.ttl.toNat == 1) }
          out := s.out ++ [.completion ⟨.ok, none, .none⟩] } ∧
      l.length = s.reass.length ∧
      ∀ (k : Nat) (e : ReassSlot), s.reass[k]? = some e →
        (e.valid = false → l[k]? = some e) ∧
        (e.valid = true → 2 ≤ e.ttl.toNat → l[k]? = some { e with ttl := BitVec.ofNat 8 (e.ttl.toNat - 1) }) ∧
        (e.valid = true → e.ttl.toNat = 1 → ∃ e' : ReassSlot, l[k]? = some e' ∧ e'.valid = false)

/-- R172: FLUSH discards every entry, counts each, delivers nothing, and changes nothing else. -/
def Obligations.FlushResult : Prop :=
  ∀ s : State, s.cfg.admitted = true →
    ∃ l : List ReassSlot, exec .flush s =
        .next { s with
          reass := l
          stat := { s.stat with
            reassFlushed := s.stat.reassFlushed + BitVec.ofNat 32 (s.reass.countP fun e => e.valid) }
          out := s.out ++ [.completion ⟨.ok, none, .none⟩] } ∧
      l.length = s.reass.length ∧ ∀ e ∈ l, e.valid = false

/-- R94: every reserved command code changes no state and completes with IllegalCommand. -/
def Obligations.ReservedCodesIllegal : Prop :=
  ∀ (s : State) (i : Instr), s.cfg.admitted = true →
    i ∈ [Instr.reservedCmd0, .reservedCmd9, .reservedCmdA, .reservedCmdB, .reservedCmdC, .reservedCmdD, .reservedCmdE,
      .reservedCmdF] →
    exec i s = .next { s with out := s.out ++ [.completion ⟨.illegalCommand, none, .none⟩] }

/-! ### The whole machine -/

/-- The invariant of R6 and R24 to R27 holds after reset (the configuration is the model's choice, log entry 1). -/
def Obligations.InvAtReset : Prop := State.reset.Inv

/-- R25, R27: every step keeps the invariant: the tables keep their lengths, no id and no sender is held twice, and every
entry is shorter than its size with a ttl between 1 and REASS_TIMEOUT. -/
def Obligations.StepKeepsInv : Prop :=
  ∀ s t : State, s.Inv → Machine.step s = .next t → t.Inv

/-- R53, R174: a frame from one sender never changes the entry of another, whatever its class and bytes. -/
def Obligations.OtherSendersUntouched : Prop :=
  ∀ (s t : State) (f : ByteString) (S R : LinkAddr) (i : Instr),
    i ∈ [Instr.recv f S R, .rxUncomp f S R, .rxIphc f S R, .rxFrag1 f S R, .rxFragN f S R, .rxUnknown f S R] →
    exec i s = .next t →
    ∀ (k : Nat) (e : ReassSlot), s.reass[k]? = some e → e.valid = true → e.sender ≠ S → t.reass[k]? = some e

/-- R171, R169: from any legal state, after a run with at least REASS_TIMEOUT TICKs in which no first fragment comes from a
sender, that sender has no entry: continuations do not keep one alive. -/
def Obligations.TimeoutLaw : Prop :=
  ∀ (s t : State) (S : LinkAddr) (is : List Instr), s.Inv → (∀ i ∈ is, i.startsEntry S = false) →
    s.cfg.reassTimeout ≤ is.count .tick → execAll is s = .next t →
    ∀ e ∈ t.reass, e.valid = true → e.sender ≠ S

/-- R150, R162, R165, R167, R168: the frames FRAGMENT sends for a compressed datagram, received in order from a sender with
no entry while a slot is free, hand exactly that datagram to the decoder, once; one completion is counted. -/
def Obligations.FragmentThenReassemble : Prop :=
  ∀ (s : State) (B : Nat) (tag : Tag) (cdg : ByteString) (S R : LinkAddr), s.Inv → 13 ≤ B → B < cdg.length →
    cdg.length ≤ 2047 → frameClass cdg = .iphc → (∀ e ∈ s.reass, ¬(e.valid = true ∧ e.sender = S)) →
    (∃ e ∈ s.reass, e.valid = false) →
    let Fs := fragFrames B tag cdg
    ∃ t : State, execAll (Fs.map fun F => .recv F S R) s = .next t ∧
      t.out = s.out ++ List.replicate (Fs.length - 1) (.completion ⟨.ok, some .fragAccepted, .none⟩) ++
        [.decoder cdg S R cdg.length, .completion ⟨.ok, some .reassToDecoder, .none⟩] ∧
      t.stat = s.stat.add .reassComplete 1 ∧ ∀ e ∈ t.reass, ¬(e.valid = true ∧ e.sender = S)

/-- R19: an instruction under a configuration outside R6, or with operands the model gives no meaning, sets the mark and does
nothing else; every other instruction answers a next state and leaves the mark as it was. -/
def Obligations.RefusalExactly : Prop :=
  ∀ (s : State) (i : Instr),
    ((s.cfg.admitted && i.wf s.cfg) = false → exec i s = .next { s with refused := true }) ∧
    ((s.cfg.admitted && i.wf s.cfg) = true → ∃ t : State, exec i s = .next t ∧ t.refused = s.refused)

/-- R32: no command, no reset and no other step clears the mark. -/
def Obligations.RefusedNeverCleared : Prop :=
  ∀ s t : State, Machine.step s = .next t → s.refused = true → t.refused = true

/-- R23: no step writes the configuration, reset included. -/
def Obligations.ConfigurationFixed : Prop :=
  ∀ s t : State, Machine.step s = .next t → t.cfg = s.cfg

/-- R104: no command but SETCTX and RMCTX writes the context table. -/
def Obligations.OnlyContextCommandsWriteContexts : Prop :=
  ∀ (s t : State) (i : Instr), exec i s = .next t → (∀ id pfx, i ≠ .setctx id pfx) → (∀ id, i ≠ .rmctx id) →
    t.ctx = s.ctx

/-- R29, R144: only FRAGMENT (and SEND, which contains it) writes the tag counter, and only by adding one modulo 2^16. -/
def Obligations.OnlyFragmentWritesTag : Prop :=
  ∀ (s t : State) (i : Instr), exec i s = .next t →
    t.tagCtr = s.tagCtr ∨
      (t.tagCtr = s.tagCtr + 1 ∧ ((∃ cdg d, i = .fragment cdg d) ∨ ∃ pkt a b, i = .send pkt a b))

/-- R26, R172: only RECV and its classes, TICK and FLUSH write the reassembly table. -/
def Obligations.OnlyReceiveWritesReassembly : Prop :=
  ∀ (s t : State) (i : Instr), exec i s = .next t → i.isReceive = false → i ≠ .tick → i ≠ .flush →
    t.reass = s.reass ∧ t.stat = s.stat

/-- R30: TICK writes only `reass_timeout`, FLUSH only `reass_flushed`, a receive neither of them. -/
def Obligations.CountersByCommand : Prop :=
  ∀ (s t : State) (i : Instr) (c : Counter), exec i s = .next t → t.stat.get c ≠ s.stat.get c →
    (c = .reassTimeout → i = .tick) ∧ (c = .reassFlushed → i = .flush) ∧
      (c ≠ .reassTimeout → c ≠ .reassFlushed → i.isReceive = true)

/-- R183: no command reports a status missing from its row. -/
def Obligations.StatusByCommand : Prop :=
  ∀ (s t : State) (i : Instr), exec i s = .next t →
    ∀ c ∈ completions (t.out.drop s.out.length), c.status ∈ i.statuses

/-- R58: an instruction only adds to what the ports have presented, delivers at most one byte string to the decoder or IP
port, and completes at most once. -/
def Obligations.OutputsOnlyAppended : Prop :=
  ∀ (s t : State) (i : Instr), exec i s = .next t →
    ∃ l : List Output, t.out = s.out ++ l ∧ l.countP Output.isDelivery ≤ 1 ∧ (completions l).length ≤ 1

/-- R186: OutOfContexts, BufferTooSmall, DatagramTooLarge and IllegalCommand leave everything but the status port as it was. -/
def Obligations.EarlyErrorsWriteNothing : Prop :=
  ∀ (s t : State) (i : Instr) (c : Completion), exec i s = .next t → c ∈ completions (t.out.drop s.out.length) →
    c.status ∈ [Status.outOfContexts, .bufferTooSmall, .datagramTooLarge, .illegalCommand] →
    t = { s with out := s.out ++ [.completion c] }
end

