-- ==== Sys2Proof/Laws/Decode.lean ====
section
/-! SUPPORT. What the decoder's parts do: link-layer addresses (R7) and fragment headers (R85 to R87). -/

namespace Sys2Proof

/-- An address reads back from its bytes (R7). -/
@[simp] theorem LinkAddr.ofBytes_toBytes (l : LinkAddr) : LinkAddr.ofBytes l.toBytes = some l := by
  cases l <;> rfl

/-- A byte string that reads as an address is that address's bytes (R7). -/
theorem LinkAddr.toBytes_of_ofBytes {b : ByteString} {l : LinkAddr} (h : LinkAddr.ofBytes b = some l) :
    l.toBytes = b := by
  unfold LinkAddr.ofBytes at h
  split at h <;> first | (cases h; rfl) | cases h

@[simp] theorem withAddr_toBytes (l : LinkAddr) (f : LinkAddr → Instr) : withAddr l.toBytes f = .instr (f l) := by
  simp [withAddr]

@[simp] theorem withAddrs_toBytes (l m : LinkAddr) (f : LinkAddr → LinkAddr → Instr) :
    withAddrs l.toBytes m.toBytes f = .instr (f l m) := by
  simp [withAddrs]

/-- A FRAG1 frame is 4 bytes longer than its data (R85). -/
@[simp] theorem frag1Frame_length (size : Size) (tag : Tag) (data : ByteString) :
    (frag1Frame size tag data).length = 4 + data.length := by
  simp [frag1Frame, sizeBytes, Machine.beBytes2]; omega

/-- A FRAGN frame is 5 bytes longer than its data (R86). -/
@[simp] theorem fragNFrame_length (size : Size) (tag : Tag) (off8 : Byte) (data : ByteString) :
    (fragNFrame size tag off8 data).length = 5 + data.length := by
  simp [fragNFrame, sizeBytes, Machine.beBytes2]; omega

@[simp] theorem frag1Frame_drop (size : Size) (tag : Tag) (data : ByteString) :
    (frag1Frame size tag data).drop 4 = data := by
  simp [frag1Frame, sizeBytes, Machine.beBytes2]

@[simp] theorem fragNFrame_drop (size : Size) (tag : Tag) (off8 : Byte) (data : ByteString) :
    (fragNFrame size tag off8 data).drop 5 = data := by
  simp [fragNFrame, sizeBytes, Machine.beBytes2]

/-- Only a frame of whole header parses (R160): what a parsed FRAG1 frame holds. -/
theorem parseFrag1_eq (F : ByteString) :
    parseFrag1 F = if 4 ≤ F.length then some (headerSize F, headerTag F, F.drop 4) else none := by
  unfold parseFrag1 Machine.memRead
  split
  · simp [headerSize, headerTag, Machine.be16, Machine.byteAt_slice_zero, *]
  · simp_all

/-- Only a frame of whole header parses (R163): what a parsed FRAGN frame holds. -/
theorem parseFragN_eq (F : ByteString) :
    parseFragN F =
      if 5 ≤ F.length then some (headerSize F, headerTag F, Machine.byteAt F 4, F.drop 5) else none := by
  unfold parseFragN Machine.memRead
  split
  · simp [headerSize, headerTag, Machine.be16, Machine.byteAt_slice_zero, *]
  · simp_all

end Sys2Proof
end

