-- ==== Sys2Proof/Laws/Fragmenter.lean ====
section
/-!
SUPPORT. What the fragmenter can do (43_fragmenter.md), said once: what FRAGMENT leaves alone and the one completion it
presents, whatever the verdicts (`fragmentDatagram_spec`), and the loop of R146 one turn at a time (`contFrames_step`).
-/

namespace Sys2Proof.Machine

/-- Two states agree on everything sending frames cannot write. -/
abbrev SameButTransmit (s t : State) : Prop :=
  t.cfg = s.cfg ∧ t.ctx = s.ctx ∧ t.reass = s.reass ∧ t.stat = s.stat ∧ t.refused = s.refused ∧ t.inputs = s.inputs

/-- Frames presented to the link, whatever the verdicts. -/
abbrev onlyLinks (l : List Output) : Prop := ∀ o ∈ l, ∃ d F v, o = .link d F v

/-- Frames and verdicts side by side are outputs of the link port and nothing else. -/
theorem onlyLinks_zipWith (d : LinkAddr) (Fs : List ByteString) (vs : List Verdict) :
    onlyLinks (List.zipWith (fun F v => Output.link d F v) Fs vs) := by
  induction Fs generalizing vs with
  | nil => simp [onlyLinks]
  | cons F Fs ih =>
    cases vs with
    | nil => simp [onlyLinks]
    | cons v vs =>
      intro o ho
      simp only [List.zipWith_cons_cons, List.mem_cons] at ho
      rcases ho with rfl | ho
      · exact ⟨d, F, v, rfl⟩
      · exact ih vs o ho

/-- Sending frames (R147, R148): the tag counter stays, the frames go to the link, and one completion follows, `OK` or
`LinkTransmitFailure`. -/
theorem transmitFrames_spec (d : LinkAddr) (Fs : List ByteString) (s : State) :
    let t := transmitFrames d Fs s
    SameButTransmit s t ∧ t.tagCtr = s.tagCtr ∧
      ∃ l st n, onlyLinks l ∧ t.out = s.out ++ l ++ [.completion ⟨st, none, .sent n⟩] ∧
        (st = .ok ∨ st = .linkTransmitFailure) := by
  obtain ⟨vs, h1, h2, h3⟩ := emitFrames_spec d Fs s
  refine ⟨?_, ?_, List.zipWith (fun F v => .link d F v) Fs vs,
    (if (emitFrames d Fs s).2.2 then .ok else .linkTransmitFailure), (emitFrames d Fs s).2.1, onlyLinks_zipWith d Fs vs, ?_, ?_⟩
  · simp [transmitFrames, h2, SameButTransmit]
  · simp [transmitFrames, h2]
  · simp [transmitFrames, h2]
  · split <;> simp

/-- FRAGMENT (R140 to R148), whatever the verdicts: the tag counter advances exactly when the datagram is fragmented, link
frames are presented, and one completion follows; a datagram that is too large gives neither. -/
theorem fragmentDatagram_spec (cdg : ByteString) (d : LinkAddr) (s : State) :
    let t := fragmentDatagram cdg d s
    SameButTransmit s t ∧
      t.tagCtr = (if s.cfg.budget < cdg.length ∧ cdg.length ≤ 2047 then s.tagCtr + 1 else s.tagCtr) ∧
      ((2047 < cdg.length ∧ t = s.complete .datagramTooLarge none (.sent 0)) ∨
        ∃ l st n, onlyLinks l ∧ t.out = s.out ++ l ++ [.completion ⟨st, none, .sent n⟩] ∧
          (st = .ok ∨ st = .linkTransmitFailure)) := by
  unfold fragmentDatagram
  split
  · rename_i h
    exact ⟨by simp [SameButTransmit], by simp; omega, .inl ⟨h, rfl⟩⟩
  · split
    · rename_i h
      obtain ⟨h1, h2, h3⟩ := transmitFrames_spec d [cdg] s
      exact ⟨h1, by rw [h2, if_neg (by omega)], .inr h3⟩
    · obtain ⟨h1, h2, h3⟩ := transmitFrames_spec d (fragFrames s.cfg.budget s.tagCtr cdg) (s.setTag (s.tagCtr + 1))
      refine ⟨by simpa [SameButTransmit] using h1, ?_, .inr (by simpa using h3)⟩
      rw [h2, if_pos (by omega)]; rfl

/-- SEND (R151): FRAGMENT of the compressed datagram, or `BufferTooSmall` with nothing sent. -/
theorem sendPacket_eq (pkt : ByteString) (a b : LinkAddr) (s : State) :
    sendPacket pkt a b s =
      if s.cfg.outCap < pkt.length then s.complete .bufferTooSmall none .none
      else fragmentDatagram (compress s.ctx pkt a b) b s := rfl

/-- One turn of the loop of R146: before the end, one frame goes out and the offset advances by its data. -/
theorem contFrames_step {B : Nat} {tag : Tag} {cdg : ByteString} {fuel off : Nat} (h : off < cdg.length) :
    contFrames B tag cdg (fuel + 1) off =
      fragNFrame (BitVec.ofNat 11 cdg.length) tag (BitVec.ofNat 8 (off / 8))
          (slice cdg off (off + contLen B cdg.length off)) ::
        contFrames B tag cdg fuel (off + contLen B cdg.length off) := by
  simp [contFrames, h]

/-- The loop of R146 ends at the datagram's end. -/
theorem contFrames_end {B : Nat} {tag : Tag} {cdg : ByteString} {fuel off : Nat} (h : cdg.length ≤ off) :
    contFrames B tag cdg fuel off = [] := by
  cases fuel <;> simp [contFrames]; omega

/-- A turn of the loop advances by at least one byte and not past the end (R143, R146). -/
theorem contLen_bounds {B Lc off : Nat} (hB : 13 ≤ B) (h : off < Lc) :
    1 ≤ contLen B Lc off ∧ off + contLen B Lc off ≤ Lc ∧ contLen B Lc off ≤ B - 5 := by
  unfold contLen
  have := floor8_le (B - 5)
  have := le_floor8 (x := B - 5) (by omega)
  split <;> omega

/-- A turn that is not the last carries `floor8(B − 5)` bytes (R146). -/
theorem contLen_not_last {B Lc off : Nat} (h : off + contLen B Lc off < Lc) :
    contLen B Lc off = floor8 (B - 5) := by
  unfold contLen at *
  split at h <;> simp_all; omega

end Sys2Proof.Machine
end

