-- ==== Sys2Proof/Laws/Reassembly.lean ====
section
/-!
SUPPORT. What receiving a frame can do (44_dispatch_reassembly.md), said once: what it leaves alone (`rxClass_frame`), what
it presents (`rxClass_out`), what it writes to the reassembly table (`rxClass_reass`).
-/

namespace Sys2Proof.Machine

/-- Two states agree on everything a received frame cannot write. -/
abbrev SameButReceive (s t : State) : Prop :=
  t.cfg = s.cfg ∧ t.ctx = s.ctx ∧ t.tagCtr = s.tagCtr ∧ t.refused = s.refused ∧ t.inputs = s.inputs ∧
    t.verdicts = s.verdicts ∧ t.draws = s.draws ∧ t.stat.reassTimeout = s.stat.reassTimeout ∧
    t.stat.reassFlushed = s.stat.reassFlushed

theorem postDispatch_frame (D : ByteString) (S R : LinkAddr) (s : State) :
    SameButReceive s (postDispatch D S R s).1 := by
  unfold postDispatch dropFrame
  split <;> simp [SameButReceive, Stats.add]

theorem storeEntry_frame (k : Nat) (e : ReassSlot) (S R : LinkAddr) (s : State) :
    SameButReceive s (storeEntry k e S R s).1 := by
  unfold storeEntry completeEntry
  split
  · have := postDispatch_frame e.buf S R ((discardEntry k e (s.writeReass k e)).count .reassComplete)
    simpa [SameButReceive, discardEntry, Stats.add] using this
  · simp [SameButReceive]

theorem placeFrag1_frame (size : Size) (tag : Tag) (data : ByteString) (S R : LinkAddr) (s : State) :
    SameButReceive s (placeFrag1 size tag data S R s).1 := by
  unfold placeFrag1 dropFrame
  split
  · split
    · simp [SameButReceive, Stats.add]
    · rename_i k e _ _
      have := storeEntry_frame k (newEntry s.cfg S size tag data) S R ((discardEntry k e s).count .reassReplaced)
      simpa [SameButReceive, discardEntry, Stats.add] using this
  · split
    · exact storeEntry_frame _ _ S R s
    · simp [SameButReceive, Stats.add]

theorem extendEntry_frame (k : Nat) (e : ReassSlot) (off : Nat) (data : ByteString) (S R : LinkAddr) (s : State) :
    SameButReceive s (extendEntry k e off data S R s).1 := by
  unfold extendEntry dropFrame
  split
  · simp [SameButReceive, discardEntry, Stats.add]
  · split
    · simp [SameButReceive, discardEntry, Stats.add]
    · exact storeEntry_frame _ _ S R s

/-- A received frame writes the reassembly table, its own counters and the output ports, and nothing else. -/
theorem rxClass_frame (c : FrameClass) (f : ByteString) (S R : LinkAddr) (s : State) :
    SameButReceive s (rxClass c f S R s).1 := by
  unfold rxClass
  split
  · simp [SameButReceive, rxUncomp]
  · simp [SameButReceive, rxIphc]
  · unfold rxFrag1 dropFrame
    split
    · simp [SameButReceive, Stats.add]
    · split
      · simp [SameButReceive, Stats.add]
      · exact placeFrag1_frame _ _ _ S R s
  · unfold rxFragN dropFrame
    split
    · simp [SameButReceive, Stats.add]
    · split
      · simp [SameButReceive, Stats.add]
      · split
        · simp [SameButReceive, Stats.add]
        · exact extendEntry_frame _ _ _ _ S R s
  · simp [SameButReceive, rxUnknown, dropFrame, Stats.add]

/-- What one received frame presents beside its completion: nothing, or one byte string on one of the two output ports. -/
abbrev OneDelivery (s t : State) : Prop :=
  t.out = s.out ∨ (∃ P, t.out = s.out ++ [.ip P]) ∨ ∃ D S R, t.out = s.out ++ [.decoder D S R D.length]

theorem postDispatch_out (D : ByteString) (S R : LinkAddr) (s : State) : OneDelivery s (postDispatch D S R s).1 := by
  unfold postDispatch dropFrame
  split
  · exact .inr (.inr ⟨D, S, R, by simp⟩)
  · exact .inr (.inl ⟨_, by simp; rfl⟩)
  · exact .inl (by simp)

theorem storeEntry_out (k : Nat) (e : ReassSlot) (S R : LinkAddr) (s : State) :
    OneDelivery s (storeEntry k e S R s).1 := by
  unfold storeEntry completeEntry
  split
  · simpa [OneDelivery, discardEntry] using
      postDispatch_out e.buf S R ((discardEntry k e (s.writeReass k e)).count .reassComplete)
  · exact .inl (by simp)

/-- A received frame is delivered at most once (R58). -/
theorem rxClass_out (c : FrameClass) (f : ByteString) (S R : LinkAddr) (s : State) :
    OneDelivery s (rxClass c f S R s).1 := by
  unfold rxClass
  split
  · exact .inr (.inl ⟨_, by simp [rxUncomp]; rfl⟩)
  · exact .inr (.inr ⟨f, S, R, by simp [rxIphc]⟩)
  · unfold rxFrag1 dropFrame placeFrag1
    split
    · exact .inl (by simp)
    · split
      · exact .inl (by simp)
      · split
        · split
          · exact .inl (by simp [dropFrame])
          · rename_i k e _ _
            simpa [OneDelivery, discardEntry] using
              storeEntry_out k (newEntry s.cfg S _ _ _) S R ((discardEntry k e s).count .reassReplaced)
        · split
          · exact storeEntry_out _ _ S R s
          · exact .inl (by simp [dropFrame])
  · unfold rxFragN dropFrame extendEntry
    split
    · exact .inl (by simp)
    · split
      · exact .inl (by simp)
      · split
        · exact .inl (by simp)
        · split
          · exact .inl (by simp [dropFrame, discardEntry])
          · split
            · exact .inl (by simp [dropFrame, discardEntry])
            · exact storeEntry_out _ _ S R s
  · exact .inl (by simp [rxUnknown, dropFrame])

/-- The table after an entry is stored: the slot holds it, or is free because it completed. -/
theorem storeEntry_reass (k : Nat) (e : ReassSlot) (S R : LinkAddr) (s : State) :
    (storeEntry k e S R s).1.reass = s.reass.set k (if e.rlen = e.size then { e with valid := false } else e) := by
  unfold storeEntry
  split
  · unfold completeEntry postDispatch dropFrame
    split <;> simp [discardEntry]
  · simp

/-- What a received frame writes to the table (R161 to R168): nothing, or one slot k. That slot was free or held the
sender's entry; what it holds now is free, or the sender's only entry: a new one short of its size with the full ttl, which
only a first fragment makes, or the old one grown by the fragment's data, its ttl unchanged. -/
theorem rxClass_reass (c : FrameClass) (f : ByteString) (S R : LinkAddr) (s : State) :
    (rxClass c f S R s).1.reass = s.reass ∨
      ∃ k old e', s.reass[k]? = some old ∧ (rxClass c f S R s).1.reass = s.reass.set k e' ∧
        (old.valid = true → old.sender = S) ∧
        (e'.valid = true →
          (c = .frag1 ∧ (∃ size tag data, e' = newEntry s.cfg S size tag data ∧ data.length < size.toNat) ∧
              ((old.valid = false ∧ ∀ d ∈ s.reass, ¬(d.valid = true ∧ d.sender = S)) ∨ old.valid = true)) ∨
            (c = .fragN ∧ old.valid = true ∧ ∃ data : ByteString, old.rlen.toNat + data.length < old.size.toNat ∧
              e' = { old with buf := old.buf ++ data, rlen := old.rlen + BitVec.ofNat 11 data.length })) := by
  have full : ∀ (size : Size) (data : ByteString), data.length ≤ size.toNat → ¬data.length < size.toNat →
      BitVec.ofNat 11 data.length = size := by
    intro size data h1 h2
    apply BitVec.eq_of_toNat_eq
    have := size.isLt
    simp only [BitVec.toNat_ofNat]; omega
  unfold rxClass
  split
  · exact .inl (by simp [rxUncomp])
  · exact .inl (by simp [rxIphc])
  · unfold rxFrag1 dropFrame placeFrag1
    split
    · exact .inl (by simp)
    · rename_i size tag data _
      split
      · exact .inl (by simp)
      · rename_i hsz
        split
        · rename_i k e hk
          split
          · exact .inl (by simp [dropFrame])
          · right
            obtain ⟨h1, h2, h3⟩ := findSlot_eq_some hk
            simp only [Bool.and_eq_true, beq_iff_eq] at h2
            refine ⟨k, e, _, h1, by
              rw [storeEntry_reass]
              simp only [State.count_reass, discardEntry, State.writeReass_reass, List.set_set]
              rfl, fun _ => h2.2, fun hv => ?_⟩
            split at hv
            · simp at hv
            · rename_i hne
              rw [if_neg hne]
              refine .inl ⟨rfl, ⟨size, tag, data, rfl, ?_⟩, .inr h2.1⟩
              by_contra hlt
              exact hne (full size data (by omega) hlt)
        · rename_i hk
          split
          · rename_i k e hf
            right
            obtain ⟨h1, h2, h3⟩ := findSlot_eq_some hf
            have hnone := findSlot_eq_none.1 hk
            have hev : e.valid = false := by simpa using h2
            refine ⟨k, e, _, h1, by rw [storeEntry_reass], fun h => by simp [hev] at h, fun hv => ?_⟩
            split at hv
            · simp at hv
            · rename_i hne
              rw [if_neg hne]
              refine .inl ⟨rfl, ⟨size, tag, data, rfl, ?_⟩, .inl ⟨hev, fun d hd => by simpa using hnone d hd⟩⟩
              by_contra hlt
              exact hne (full size data (by omega) hlt)
          · exact .inl (by simp [dropFrame])
  · unfold rxFragN dropFrame extendEntry
    split
    · exact .inl (by simp)
    · split
      · exact .inl (by simp)
      · rename_i size tag off8 data _ _ k e hk
        obtain ⟨h1, h2, h3⟩ := findSlot_eq_some hk
        simp only [Bool.and_eq_true, beq_iff_eq] at h2
        split
        · exact .inl (by simp)
        · split
          · exact .inr ⟨k, e, { e with valid := false }, h1, by simp [dropFrame, discardEntry], fun _ => h2.2, by simp⟩
          · split
            · exact .inr ⟨k, e, { e with valid := false }, h1, by simp [dropFrame, discardEntry], fun _ => h2.2, by simp⟩
            · rename_i hle
              right
              refine ⟨k, e, _, h1, by rw [storeEntry_reass], fun _ => h2.2, fun hv => ?_⟩
              split at hv
              · simp at hv
              · rename_i hne
                rw [if_neg hne]
                refine .inr ⟨rfl, h2.1, data, ?_, rfl⟩
                by_contra hlt
                apply hne
                apply BitVec.eq_of_toNat_eq
                have := e.size.isLt
                have := e.rlen.isLt
                simp only [BitVec.toNat_add, BitVec.toNat_ofNat]; omega
  · exact .inl (by simp [rxUnknown, dropFrame])

/-! The searches and the sweep. -/

/-- The sender's lowest valid slot is the one found (R174). -/
theorem findSender_of_lowest {s : State} {S : LinkAddr} {k : Nat} {e : ReassSlot} (hk : s.reass[k]? = some e)
    (hv : e.valid = true) (hS : e.sender = S)
    (hl : ∀ (j : Nat) (d : ReassSlot), j < k → s.reass[j]? = some d → ¬(d.valid = true ∧ d.sender = S)) :
    findSender s S = some (k, e) :=
  findSlot_of_lowest hk (by simp [hv, hS]) fun j d hj hd => by simpa using hl j d hj hd

/-- A sender with no valid slot is not found (R174). -/
theorem findSender_eq_none_of {s : State} {S : LinkAddr} (h : ∀ d ∈ s.reass, ¬(d.valid = true ∧ d.sender = S)) :
    findSender s S = none :=
  findSlot_eq_none.2 fun d hd => by simpa using h d hd

/-- The lowest slot that is not valid is the one found (R161). -/
theorem findFree_of_lowest {s : State} {k : Nat} {e : ReassSlot} (hk : s.reass[k]? = some e) (hv : e.valid = false)
    (hl : ∀ (j : Nat) (d : ReassSlot), j < k → s.reass[j]? = some d → d.valid = true) : findFree s = some (k, e) :=
  findSlot_of_lowest hk (by simp [hv]) fun j d hj hd => by simpa using hl j d hj hd

/-- A running length below the size is not the size (R27 b). -/
theorem ofNat_ne_size {size : Size} {n : Nat} (h : n < size.toNat) : BitVec.ofNat 11 n ≠ size := by
  intro hh
  have := congrArg BitVec.toNat hh
  have := size.isLt
  simp at *; omega

/-- One sweep of a valid slot with a legal ttl (R170): the last one removes it, any other counts down. -/
theorem sweepSlot_valid {e : ReassSlot} (hv : e.valid = true) (ht : 1 ≤ e.ttl.toNat) :
    (expires e = true ↔ e.ttl.toNat = 1) ∧
      sweepSlot e =
        if e.ttl.toNat = 1 then { e with ttl := 0, valid := false }
        else { e with ttl := BitVec.ofNat 8 (e.ttl.toNat - 1) } := by
  have hsub : e.ttl - 1 = BitVec.ofNat 8 (e.ttl.toNat - 1) := by
    apply BitVec.eq_of_toNat_eq
    have := e.ttl.isLt
    simp [BitVec.toNat_sub]; omega
  have hz : e.ttl - 1 = 0 ↔ e.ttl.toNat = 1 := by
    rw [hsub]
    constructor
    · intro h
      have := congrArg BitVec.toNat h
      have := e.ttl.isLt
      simp at *; omega
    · intro h; simp [h]
  refine ⟨by simp only [expires, hv, Bool.true_and, beq_iff_eq, hz], ?_⟩
  unfold sweepSlot
  rw [if_pos hv]
  by_cases h : e.ttl.toNat = 1
  · rw [if_pos (hz.2 h), if_pos h, hz.2 h]
  · rw [if_neg (fun hh => h (hz.1 hh)), if_neg h, hsub]

end Sys2Proof.Machine
end

