-- ==== Sys2Proof/Laws/Exec.lean ====
section
/-!
SUPPORT. What executing an instruction can do, said once for all of them (`exec_cases`): it is refused, or it is one of the
command's results, each with what it writes.
-/

namespace Sys2Proof.Machine

/-- RECV and its rows complete a class rule with status OK (R155). -/
theorem exec_receive {s t : State} {i : Instr} (hi : i.isReceive = true) (h : exec i s = .next t) :
    t = s.refuse ∨ ∃ c f S R, t = finishRx (rxClass c f S R s) ∧ frameClass f = c ∧
      i ∈ [Instr.recv f S R, classInstr c f S R] := by
  cases i <;> simp only [Instr.isReceive, Bool.false_eq_true] at hi
  case recv f S R =>
    rcases State.accept_eq_next h with ⟨_, _, rfl⟩ | ⟨_, rfl⟩
    · exact .inr ⟨_, f, S, R, rfl, rfl, by simp⟩
    · exact .inl rfl
  case rxUncomp f S R =>
    rcases State.accept_eq_next h with ⟨_, hc, rfl⟩ | ⟨_, rfl⟩
    · exact .inr ⟨.uncomp, f, S, R, rfl, by simpa using hc, by simp [classInstr]⟩
    · exact .inl rfl
  case rxIphc f S R =>
    rcases State.accept_eq_next h with ⟨_, hc, rfl⟩ | ⟨_, rfl⟩
    · exact .inr ⟨.iphc, f, S, R, rfl, by simpa using hc, by simp [classInstr]⟩
    · exact .inl rfl
  case rxFrag1 f S R =>
    rcases State.accept_eq_next h with ⟨_, hc, rfl⟩ | ⟨_, rfl⟩
    · exact .inr ⟨.frag1, f, S, R, rfl, by simpa using hc, by simp [classInstr]⟩
    · exact .inl rfl
  case rxFragN f S R =>
    rcases State.accept_eq_next h with ⟨_, hc, rfl⟩ | ⟨_, rfl⟩
    · exact .inr ⟨.fragN, f, S, R, rfl, by simpa using hc, by simp [classInstr]⟩
    · exact .inl rfl
  case rxUnknown f S R =>
    rcases State.accept_eq_next h with ⟨_, hc, rfl⟩ | ⟨_, rfl⟩
    · exact .inr ⟨.unknown, f, S, R, rfl, by simpa using hc, by simp [classInstr]⟩
    · exact .inl rfl

/-- Everything an instruction can do: be refused (R19); write the context table (R100, R101) or read it (R102); encode
(R122, R123); send frames (R140 to R151); receive (R155); sweep (R170) or flush (R172); or be a reserved code (R94). -/
theorem exec_cases {s t : State} {i : Instr} (h : exec i s = .next t) :
    t = s.refuse ∨
    (∃ id pfx, i = .setctx id pfx ∧ t = setContext id pfx s) ∨
    (∃ id, i = .rmctx id ∧ t = removeContext id s) ∨
    (∃ id, i = .lookupctx id ∧ t = lookupContext id s) ∨
    (∃ pkt a b, i = .encode pkt a b ∧ t = encodePacket pkt a b s) ∨
    (∃ cdg d, i = .fragment cdg d ∧ t = fragmentDatagram cdg d s) ∨
    (∃ pkt a b, i = .send pkt a b ∧ t = sendPacket pkt a b s) ∨
    ((∃ size tag data d, i = .txFrag1 size tag data d ∧ t = s.emitFrame d (frag1Frame size tag data)) ∨
      ∃ size tag off8 data d, i = .txFragN size tag off8 data d ∧ t = s.emitFrame d (fragNFrame size tag off8 data)) ∨
    (i.isReceive = true ∧ ∃ c f S R, t = finishRx (rxClass c f S R s) ∧ frameClass f = c ∧
      i ∈ [Instr.recv f S R, classInstr c f S R]) ∨
    (i = .tick ∧ t = sweep s) ∨ (i = .flush ∧ t = flushAll s) ∨
    (i.statuses = [.illegalCommand] ∧ i.isReceive = false ∧ t = illegalCommand s) := by
  by_cases hr : i.isReceive = true
  · rcases exec_receive hr h with h | h
    · exact .inl h
    · iterate 8 apply Or.inr
      exact .inl ⟨hr, h⟩
  · cases i <;> simp only [Instr.isReceive, not_true_eq_false] at hr <;>
      rcases State.accept_eq_next h with ⟨_, _, rfl⟩ | ⟨_, rfl⟩ <;>
      simp [Instr.statuses, Instr.isReceive]

/-- SETCTX writes the context table and the ports only (R100). -/
theorem setContext_frame (id : CtxId) (pfx : Prefix64) (s : State) :
    let t := setContext id pfx s
    t.cfg = s.cfg ∧ t.reass = s.reass ∧ t.tagCtr = s.tagCtr ∧ t.stat = s.stat ∧ t.refused = s.refused := by
  unfold setContext; split
  · simp
  · split <;> simp

/-- LOOKUPCTX writes the ports only (R102). -/
theorem lookupContext_frame (id : CtxId) (s : State) :
    let t := lookupContext id s
    t.cfg = s.cfg ∧ t.ctx = s.ctx ∧ t.reass = s.reass ∧ t.tagCtr = s.tagCtr ∧ t.stat = s.stat ∧
      t.refused = s.refused := by
  unfold lookupContext; split <;> simp

/-- ENCODE writes the ports only (R120). -/
theorem encodePacket_frame (pkt : ByteString) (a b : LinkAddr) (s : State) :
    let t := encodePacket pkt a b s
    t.cfg = s.cfg ∧ t.ctx = s.ctx ∧ t.reass = s.reass ∧ t.tagCtr = s.tagCtr ∧ t.stat = s.stat ∧
      t.refused = s.refused := by
  unfold encodePacket; split <;> simp

/-- Everything a step can do: nothing (R195), reset (R200), a statistics read (R46), a refusal at the port (R7), or one
instruction (R40). -/
theorem step_cases {s t : State} (h : step s = .next t) :
    t = s ∨ t = s.dropInput.doReset ∨ t = s.dropInput.present (.stats s.stat) ∨ t = s.dropInput.refuse ∨
      ∃ i, exec i s.dropInput = .next t := by
  unfold step takeInput takeWord at h
  split at h <;> rename_i hh
  · split at hh
    · cases hh; cases h; simp
    · cases hh; cases h; simp
    · cases hh; cases h; simp
    · split at hh
      · cases hh
      · cases hh; cases h; simp
  · split at hh
    · cases hh
    · cases hh
    · cases hh
    · split at hh
      · cases hh; exact .inr (.inr (.inr (.inr ⟨_, h⟩)))
      · cases hh

/-! What link frames are among the outputs. -/

@[simp] theorem completions_append (a b : List Output) : completions (a ++ b) = completions a ++ completions b := by
  simp [completions]

/-- Link frames complete nothing (R41, R45). -/
theorem completions_links {l : List Output} (h : onlyLinks l) : completions l = [] := by
  unfold completions
  rw [List.filterMap_eq_nil_iff]
  intro o ho
  obtain ⟨d, F, v, rfl⟩ := h o ho
  rfl

/-- Link frames deliver nothing to the decoder or the IP port (R43, R44, R45). -/
theorem countP_isDelivery_links {l : List Output} (h : onlyLinks l) : l.countP Output.isDelivery = 0 := by
  rw [List.countP_eq_zero]
  intro o ho
  obtain ⟨d, F, v, rfl⟩ := h o ho
  simp [Output.isDelivery]

end Sys2Proof.Machine
end

