-- ==== Sys2Proof/Laws/PerInstr.lean ====
section
/-!
SUPPORT. The family TableRow: the word `encode` lays out for an instruction carries its row's match value under its row's
mask (opcode_table.json), one lemma per constructor of Instr.
-/

namespace Sys2Proof.Laws.TableRow

open Sys2Proof

/-- The 4-bit command code, or the pseudo-command's lack of one, of the first seventeen rows (R90, R93). -/
def commandCode : Instr → Option (BitVec 4)
  | .setctx _ _ => some 0x1
  | .rmctx _ => some 0x2
  | .lookupctx _ => some 0x3
  | .encode _ _ _ => some 0x4
  | .fragment _ _ => some 0x5
  | .recv _ _ _ => some 0x6
  | .tick => some 0x7
  | .flush => some 0x8
  | .reservedCmd0 => some 0x0
  | .reservedCmd9 => some 0x9
  | .reservedCmdA => some 0xA
  | .reservedCmdB => some 0xB
  | .reservedCmdC => some 0xC
  | .reservedCmdD => some 0xD
  | .reservedCmdE => some 0xE
  | .reservedCmdF => some 0xF
  | .send _ _ _ => none
  | .rxUncomp _ _ _ => none
  | .rxIphc _ _ _ => none
  | .rxFrag1 _ _ _ => none
  | .rxFragN _ _ _ => none
  | .rxUnknown _ _ _ => none
  | .txFrag1 _ _ _ _ => none
  | .txFragN _ _ _ _ _ => none

/-- Match and mask of a row with a dispatch byte (R66); RX_UNKNOWN's row has neither. -/
def dispatchRow : Instr → Option (Byte × Byte)
  | .setctx _ _ => none
  | .rmctx _ => none
  | .lookupctx _ => none
  | .encode _ _ _ => none
  | .fragment _ _ => none
  | .recv _ _ _ => none
  | .tick => none
  | .flush => none
  | .reservedCmd0 => none
  | .reservedCmd9 => none
  | .reservedCmdA => none
  | .reservedCmdB => none
  | .reservedCmdC => none
  | .reservedCmdD => none
  | .reservedCmdE => none
  | .reservedCmdF => none
  | .send _ _ _ => none
  | .rxUncomp _ _ _ => some (0x41, 0xFF)
  | .rxIphc _ _ _ => some (0x60, 0xE0)
  | .rxFrag1 _ _ _ => some (0xC0, 0xF8)
  | .rxFragN _ _ _ => some (0xE0, 0xF8)
  | .rxUnknown _ _ _ => none
  | .txFrag1 _ _ _ _ => some (0xC0, 0xF8)
  | .txFragN _ _ _ _ _ => some (0xE0, 0xF8)

/-- The word of a well-formed instruction carries the command code of its row, or a first byte that matches the row's
dispatch under the row's mask. -/
def Statement (i : Instr) : Prop :=
  ∀ c : Configuration, i.wf c = true →
    match encode i with
    | .command op _ => commandCode i = some op
    | .send _ _ _ => commandCode i = none ∧ dispatchRow i = none
    | .receive frame _ _ => commandCode i = none ∧ ∀ m ∈ dispatchRow i, ∃ d r, frame = d :: r ∧ d &&& m.2 = m.1
    | .transmit frame _ => ∃ m d r, dispatchRow i = some m ∧ frame = d :: r ∧ d &&& m.2 = m.1

theorem setctx (id : CtxId) (pfx : Prefix64) : Statement (.setctx id pfx) := fun _ _ => rfl
theorem rmctx (id : CtxId) : Statement (.rmctx id) := fun _ _ => rfl
theorem lookupctx (id : CtxId) : Statement (.lookupctx id) := fun _ _ => rfl
theorem encode (pkt : ByteString) (a b : LinkAddr) : Statement (.encode pkt a b) := fun _ _ => rfl
theorem fragment (cdg : ByteString) (d : LinkAddr) : Statement (.fragment cdg d) := fun _ _ => rfl
theorem recv (f : ByteString) (a b : LinkAddr) : Statement (.recv f a b) := fun _ _ => rfl
theorem tick : Statement .tick := fun _ _ => rfl
theorem flush : Statement .flush := fun _ _ => rfl
theorem reservedCmd0 : Statement .reservedCmd0 := fun _ _ => rfl
theorem reservedCmd9 : Statement .reservedCmd9 := fun _ _ => rfl
theorem reservedCmdA : Statement .reservedCmdA := fun _ _ => rfl
theorem reservedCmdB : Statement .reservedCmdB := fun _ _ => rfl
theorem reservedCmdC : Statement .reservedCmdC := fun _ _ => rfl
theorem reservedCmdD : Statement .reservedCmdD := fun _ _ => rfl
theorem reservedCmdE : Statement .reservedCmdE := fun _ _ => rfl
theorem reservedCmdF : Statement .reservedCmdF := fun _ _ => rfl
theorem send (pkt : ByteString) (a b : LinkAddr) : Statement (.send pkt a b) := fun _ _ => ⟨rfl, rfl⟩

/-- A frame of a class with a dispatch byte starts with a byte that matches the class (R66). -/
theorem dispatch_of_class {f : ByteString} {c : FrameClass} {m : Byte × Byte}
    (hm : ∀ d : Byte, classOfByte d = c → d &&& m.2 = m.1) (hc : c ≠ .unknown) (h : frameClass f = c) :
    ∃ d r, f = d :: r ∧ d &&& m.2 = m.1 := by
  cases f with
  | nil => exact absurd h.symm hc
  | cons d r => exact ⟨d, r, rfl, hm d h⟩

theorem rxUncomp (f : ByteString) (a b : LinkAddr) : Statement (.rxUncomp f a b) := fun _ h =>
  ⟨rfl, fun m hm => by
    cases hm; exact dispatch_of_class (c := .uncomp) (by decide) (by decide) (by simpa [Instr.wf] using h)⟩
theorem rxIphc (f : ByteString) (a b : LinkAddr) : Statement (.rxIphc f a b) := fun _ h =>
  ⟨rfl, fun m hm => by
    cases hm; exact dispatch_of_class (c := .iphc) (by decide) (by decide) (by simpa [Instr.wf] using h)⟩
theorem rxFrag1 (f : ByteString) (a b : LinkAddr) : Statement (.rxFrag1 f a b) := fun _ h =>
  ⟨rfl, fun m hm => by
    cases hm; exact dispatch_of_class (c := .frag1) (by decide) (by decide) (by simpa [Instr.wf] using h)⟩
theorem rxFragN (f : ByteString) (a b : LinkAddr) : Statement (.rxFragN f a b) := fun _ h =>
  ⟨rfl, fun m hm => by
    cases hm; exact dispatch_of_class (c := .fragN) (by decide) (by decide) (by simpa [Instr.wf] using h)⟩
theorem rxUnknown (f : ByteString) (a b : LinkAddr) : Statement (.rxUnknown f a b) := fun _ _ =>
  ⟨rfl, fun m hm => by cases hm⟩

/-- The dispatch byte of a fragment header keeps its class bits whatever the size (R85, R86). -/
theorem dispatch_of_size (base : Byte) (hb : base &&& 0xF8 = base) (x : BitVec 3) :
    (base ||| x.setWidth 8) &&& 0xF8 = base := by
  revert hb x; revert base; decide

theorem txFrag1 (size : Size) (tag : Tag) (data : ByteString) (d : LinkAddr) :
    Statement (.txFrag1 size tag data d) := fun _ _ =>
  ⟨_, _, _, rfl, by simp [frag1Frame, sizeBytes]; exact ⟨rfl, rfl⟩, dispatch_of_size 0xC0 rfl _⟩
theorem txFragN (size : Size) (tag : Tag) (off8 : Byte) (data : ByteString) (d : LinkAddr) :
    Statement (.txFragN size tag off8 data d) := fun _ _ =>
  ⟨_, _, _, rfl, by simp [fragNFrame, sizeBytes]; exact ⟨rfl, rfl⟩, dispatch_of_size 0xE0 rfl _⟩

end Sys2Proof.Laws.TableRow
end

