-- ==== Sys2Proof/Tests/Slice0.lean ====
section
/-!
SUPPORT. Tests of one step each. Expected results come from spec/: the tables of 30_encoding.md and the vectors of
95_test_vectors.md, named in each docstring. The last part gives, for every statement with hypotheses, values that meet them.
-/

namespace Sys2Proof.Tests

open Sys2Proof Sys2Proof.Machine

/-! ### A small machine -/

/-- Two context slots, two reassembly slots, B = 13 (vector F-10), REASS_TIMEOUT = 3, and a link that accepts four frames. -/
def tiny : State :=
  { State.reset with
    cfg := { nCtx := 2, nReass := 2, linkMtu := 15, llOverhead := 2, reassTimeout := 3, outCap := 56 }
    ctx := [CtxSlot.free, CtxSlot.free]
    reass := [ReassSlot.free, ReassSlot.free]
    verdicts := [.ok, .ok, .ok, .ok] }

/-- The senders and addresses of 95_test_vectors.md. -/
def sh1 : LinkAddr := .short 0x00 0x01
def sh2 : LinkAddr := .short 0x00 0x02
def shAB : LinkAddr := .short 0xAB 0xCD
def macS : LinkAddr := .mac 0x00 0x11 0x22 0x33 0x44 0x55
def macD : LinkAddr := .mac 0x00 0x66 0x77 0x88 0x99 0xAA
def euiS : LinkAddr := .eui64 0x00 0x12 0x4B 0x00 0x01 0x02 0x03 0x04

/-- The instruction answers a next state of which the test holds. -/
def yields (i : Instr) (s : State) (p : State → Bool) : Bool :=
  match exec i s with
  | .next t => p t
  | .fault _ => false
  | .refused _ => false

/-- The step answers a next state of which the test holds. -/
def stepYields (s : State) (p : State → Bool) : Bool :=
  match Machine.step s with
  | .next t => p t
  | .fault _ => false
  | .refused _ => false

/-- A command other than RECV completed with this status and result. -/
def did (st : Status) (r : CmdResult) : Output := .completion ⟨st, none, r⟩

/-- A RECV completed with this outcome. -/
def got (o : RxOutcome) : Output := .completion ⟨.ok, some o, .none⟩

/-- The entry of vector R-4: (S, tag 7, size 20, rlen 8, ttl 3). -/
def entry4 : ReassSlot :=
  { valid := true, sender := sh1, tag := 7, size := 20, buf := [0, 1, 2, 3, 4, 5, 6, 7], rlen := 8, ttl := 3 }

/-- The state of vector R-4. -/
def afterR4 : State := { tiny with reass := [entry4, ReassSlot.free] }

/-- Both contexts of vectors C-1 and C-2. -/
def afterC2 : State := { tiny with ctx := [⟨true, 0, 0x20010db800000000⟩, ⟨true, 5, 0x20010db800000005⟩] }

/-- The packet of R138 (vector E-1): 52 bytes. -/
def packetE1 : ByteString :=
  [0x60, 0, 0, 0, 0, 12, 17, 64, 0xFE, 0x80, 0, 0, 0, 0, 0, 0, 0x02, 0x11, 0x22, 0xFF, 0xFE, 0x33, 0x44, 0x55] ++
  [0xFE, 0x80, 0, 0, 0, 0, 0, 0, 0x02, 0x66, 0x77, 0xFF, 0xFE, 0x88, 0x99, 0xAA] ++
  [0xF0, 0xB1, 0xF0, 0xB2, 0, 12, 0xAB, 0xCD, 0xDE, 0xAD, 0xBE, 0xEF]

/-- The packet of vector E-4: 44 bytes, ICMPv6, source under the prefix of context 0. -/
def packetE4 : ByteString :=
  [0x60, 0, 0, 0, 0, 4, 58, 64, 0x20, 0x01, 0x0D, 0xB8, 0, 0, 0, 0, 0, 0, 0, 0, 0, 0, 0x12, 0x34] ++
  [0xFE, 0x80, 0, 0, 0, 0, 0, 0, 0, 0, 0, 0, 0, 0, 0, 1] ++ [0x80, 0, 0, 0]

/-! ### Decoding: words written out from the tables of 30_encoding.md -/

/-- R90: op 0x1..0x3. -/
theorem test_decode_context_commands :
    decode (.command 0x1 { id := 3, pfx := 0x20010db800010002 }) = .instr (.setctx 3 0x20010db800010002) ∧
    decode (.command 0x2 { id := 9 }) = .instr (.rmctx 9) ∧
    decode (.command 0x3 { id := 15 }) = .instr (.lookupctx 15) := by decide

/-- R90, R93: op 0x4, op 0x5 and the pseudo-command. -/
theorem test_decode_send_path :
    decode (.command 0x4 { str := [0x60], addrA := [0, 1], addrB := [0, 0x11, 0x22, 0x33, 0x44, 0x55] }) =
      .instr (.encode [0x60] sh1 macS) ∧
    decode (.command 0x5 { str := [0x7E], addrA := [0, 0x12, 0x4B, 0, 1, 2, 3, 4] }) = .instr (.fragment [0x7E] euiS) ∧
    decode (.send [0x60] [0, 1] [0, 2]) = .instr (.send [0x60] sh1 sh2) := by decide

/-- R90, R94: op 0x6..0x8 and every reserved code. -/
theorem test_decode_rest :
    decode (.command 0x6 { str := [0x41], addrA := [0, 1], addrB := [0, 2] }) = .instr (.recv [0x41] sh1 sh2) ∧
    decode (.command 0x7 {}) = .instr .tick ∧ decode (.command 0x8 {}) = .instr .flush ∧
    [0x0, 0x9, 0xA, 0xB, 0xC, 0xD, 0xE, 0xF].map (fun op => decode (.command op {})) =
      [Instr.reservedCmd0, .reservedCmd9, .reservedCmdA, .reservedCmdB, .reservedCmdC, .reservedCmdD, .reservedCmdE,
        .reservedCmdF].map Decoded.instr := by decide

/-- R66, R158: the boundary bytes of every class (vectors D-1 to D-11). -/
theorem test_classes :
    [0x60, 0x7F].map classOfByte = [.iphc, .iphc] ∧ [0xC0, 0xC7].map classOfByte = [.frag1, .frag1] ∧
    [0xE0, 0xE7].map classOfByte = [.fragN, .fragN] ∧ classOfByte 0x41 = .uncomp ∧
    [0x00, 0x40, 0x42, 0x5F, 0x80, 0xBF, 0xC8, 0xDF, 0xE8, 0xFF].all (fun d => classOfByte d == .unknown) = true ∧
    frameClass [] = .unknown := by decide

/-- R66: a received frame of each class. -/
theorem test_decode_received :
    decode (.receive [0x41, 0x60] [0, 1] [0, 2]) = .instr (.rxUncomp [0x41, 0x60] sh1 sh2) ∧
    decode (.receive [0x7F] [0, 1] [0, 2]) = .instr (.rxIphc [0x7F] sh1 sh2) ∧
    decode (.receive [0xC7] [0, 1] [0, 2]) = .instr (.rxFrag1 [0xC7] sh1 sh2) ∧
    decode (.receive [0xE7] [0, 1] [0, 2]) = .instr (.rxFragN [0xE7] sh1 sh2) ∧
    decode (.receive [] [0, 1] [0, 2]) = .instr (.rxUnknown [] sh1 sh2) := by decide

/-- R85, R86: the first two headers of L1-1, with tag 0x0102 in place of 0. -/
theorem test_decode_transmitted :
    decode (.transmit [0xC4, 0xD9, 0x01, 0x02, 0xAA] [0, 2]) = .instr (.txFrag1 0x4D9 0x0102 [0xAA] sh2) ∧
    decode (.transmit [0xE4, 0xD9, 0x01, 0x02, 0x0C, 0xAA] [0, 2]) = .instr (.txFragN 0x4D9 0x0102 0x0C [0xAA] sh2) := by
  decide

/-- R85, R86: the encoder lays the same headers out. -/
theorem test_encode_transmitted :
    encode (.txFrag1 0x4D9 0x0102 [0xAA] sh2) = .transmit [0xC4, 0xD9, 0x01, 0x02, 0xAA] [0, 2] ∧
    encode (.txFragN 0x4D9 0x0102 0x0C [0xAA] sh2) = .transmit [0xE4, 0xD9, 0x01, 0x02, 0x0C, 0xAA] [0, 2] := by decide

/-- R7: an address of 3 bytes, of none, or of 9 is rejected by name; so is a truncated fragment header on its way out. -/
theorem test_decode_rejects :
    decode (.command 0x5 { str := [0x60], addrA := [1, 2, 3] }) = .rejected .badAddressLength ∧
    decode (.send [0x60] [] [0, 2]) = .rejected .badAddressLength ∧
    decode (.receive [0x41] [0, 1] [1, 2, 3, 4, 5, 6, 7, 8, 9]) = .rejected .badAddressLength ∧
    decode (.transmit [0xC0, 0x67, 0] [0, 2]) = .rejected .notAFragmentFrame ∧
    decode (.transmit [0x41] [0, 2]) = .rejected .notAFragmentFrame := by decide

/-- The table's numbering (log entry 10): SETCTX by its code, RX_FRAGN by its dispatch byte. -/
theorem test_decodeTableWord :
    decodeTableWord 8 0x1 = some (.setctx 0 0) ∧ decodeTableWord 4 0xF = some .reservedCmdF ∧
    decodeTableWord 8 0xE0 = some (.rxFragN [0xE0, 0, 0, 0, 0] (.short 0 0) (.short 0 0)) := by decide

/-! ### Ill-formed instructions: each check refuses its term -/

/-- R121: too short; version 4 (vector E-15); a wrong payload length; UDP too short; a wrong UDP length. -/
theorem test_illformed_packets :
    (Instr.encode (packetE1.take 39) macS macD).wf tiny.cfg = false ∧
    (Instr.encode (0x40 :: packetE1.drop 1) macS macD).wf tiny.cfg = false ∧
    (Instr.encode (packetE1 ++ [0]) macS macD).wf tiny.cfg = false ∧
    (Instr.encode ([0x60, 0, 0, 0, 0, 7, 17] ++ (packetE1.drop 7).take 40) macS macD).wf tiny.cfg = false ∧
    (Instr.send (packetE1.take 44 ++ [0, 13] ++ packetE1.drop 46) macS macD).wf tiny.cfg = false := by decide

/-- R140: an empty datagram (vector F-11). -/
theorem test_illformed_fragment : (Instr.fragment [] sh2).wf tiny.cfg = false := by decide

/-- R66: frames under the wrong row. -/
theorem test_illformed_received :
    (Instr.rxUncomp [0x40] sh1 sh2).wf tiny.cfg = false ∧ (Instr.rxIphc [0x80] sh1 sh2).wf tiny.cfg = false ∧
    (Instr.rxFrag1 [0xC8] sh1 sh2).wf tiny.cfg = false ∧ (Instr.rxFragN [0xE8] sh1 sh2).wf tiny.cfg = false ∧
    (Instr.rxUnknown [0x41] sh1 sh2).wf tiny.cfg = false := by decide

/-- R145, R146 with B = 13: a datagram that fits one frame, data of the wrong length, an offset inside the first fragment, an
offset at the end. -/
theorem test_illformed_transmitted :
    (Instr.txFrag1 13 0 [0, 1, 2, 3, 4, 5, 6, 7] sh2).wf tiny.cfg = false ∧
    (Instr.txFrag1 30 0 [0, 1, 2, 3, 4, 5, 6] sh2).wf tiny.cfg = false ∧
    (Instr.txFragN 13 0 1 [8, 9, 10, 11, 12] sh2).wf tiny.cfg = false ∧
    (Instr.txFragN 30 0 0 [0, 1, 2, 3, 4, 5, 6, 7] sh2).wf tiny.cfg = false ∧
    (Instr.txFragN 24 0 3 [] sh2).wf tiny.cfg = false ∧
    (Instr.txFragN 30 0 3 [0, 1, 2, 3, 4, 5, 6] sh2).wf tiny.cfg = false := by decide

/-- R6, R143: every constraint of the configuration refuses a record that breaks it alone. -/
theorem test_refused_configurations :
    ({ tiny.cfg with nCtx := 0 }).admitted = false ∧ ({ tiny.cfg with nCtx := 17 }).admitted = false ∧
    ({ tiny.cfg with nReass := 0 }).admitted = false ∧ ({ tiny.cfg with linkMtu := 14 }).admitted = false ∧
    ({ tiny.cfg with llOverhead := 15 }).admitted = false ∧ ({ tiny.cfg with reassTimeout := 0 }).admitted = false ∧
    ({ tiny.cfg with reassTimeout := 256 }).admitted = false ∧ tiny.cfg.admitted = true := by decide

/-! ### Context table -/

/-- Vectors C-3 and C-4: a full table refuses a new id and overwrites a present one. -/
theorem test_setctx_full :
    yields (.setctx 7 0) afterC2 (fun t => t.ctx == afterC2.ctx && t.out == [did .outOfContexts .none]) = true ∧
    yields (.setctx 5 0x20010db800000006) afterC2 (fun t =>
      t.ctx == [⟨true, 0, 0x20010db800000000⟩, ⟨true, 5, 0x20010db800000006⟩] && t.out == [did .ok .none]) = true := by
  decide

/-- Vector C-1: the lowest free slot. -/
theorem test_setctx_free :
    yields (.setctx 0 0x20010db800000000) tiny (fun t =>
      t.ctx == [⟨true, 0, 0x20010db800000000⟩, CtxSlot.free] && t.out == [did .ok .none]) = true := by decide

/-- Vector C-6: an absent id; the first step of C-8: a present one. -/
theorem test_rmctx :
    yields (.rmctx 9) afterC2 (fun t => t.ctx == afterC2.ctx && t.out == [did .ok .none]) = true ∧
    yields (.rmctx 0) afterC2 (fun t => t.ctx.map (·.inUse) == [false, true]) = true := by decide

/-- Vectors C-5 (with the prefix of C-2) and C-7. -/
theorem test_lookupctx :
    yields (.lookupctx 5) afterC2 (fun t => t.out == [did .ok (.context true 0x20010db800000005)]) = true ∧
    yields (.lookupctx 9) afterC2 (fun t => t.out == [did .ok (.context false 0)]) = true := by decide

/-! ### Address modes and the encoder's parts -/

/-- Vectors A-4 to A-9. -/
theorem test_ucast_mode :
    let A := fun iid : ByteString => [0xFE, 0x80, 0, 0, 0, 0, 0, 0] ++ iid
    ucastMode (A [0x02, 0x11, 0x22, 0xFF, 0xFE, 0x33, 0x44, 0x55]) macS = 3 ∧
    ucastMode (A [0x02, 0x11, 0x22, 0xFF, 0xFE, 0x33, 0x44, 0x55]) macD = 1 ∧
    ucastMode (A [0, 0, 0, 0xFF, 0xFE, 0, 0x11, 0x11]) shAB = 2 ∧
    ucastMode (A [0, 0, 0, 0xFF, 0xFE, 0, 0xAB, 0xCD]) shAB = 3 ∧
    ucastMode (A [0, 0, 0, 0xFF, 0xFE, 0, 0x03, 0x04]) euiS = 2 ∧ ucastMode (A [0, 0, 0, 0, 0, 0, 0, 1]) shAB = 1 := by
  decide

/-- Vectors A-10 to A-15: ff02::1, ff02::1:1, ff02::1:ff00:1234, ff0e::1234:5678:9abc:def0, ff02::100. -/
theorem test_mcast_mode :
    let M := fun (sc : Byte) (low : ByteString) => [0xFF, sc, 0, 0, 0, 0, 0, 0] ++ low
    mcastMode (M 2 [0, 0, 0, 0, 0, 0, 0, 1]) = 3 ∧ mcastInline (M 2 [0, 0, 0, 0, 0, 1, 0, 1]) 2 = [2, 1, 0, 1] ∧
    mcastMode (M 2 [0, 0, 0, 0, 0, 1, 0, 1]) = 2 ∧ mcastMode (M 2 [0, 0, 0, 1, 0xFF, 0, 0x12, 0x34]) = 1 ∧
    mcastInline (M 2 [0, 0, 0, 1, 0xFF, 0, 0x12, 0x34]) 1 = [2, 1, 0xFF, 0, 0x12, 0x34] ∧
    mcastMode (M 0xE [0x12, 0x34, 0x56, 0x78, 0x9A, 0xBC, 0xDE, 0xF0]) = 0 ∧ mcastMode (M 2 [0, 0, 0, 0, 0, 0, 1, 0]) = 2 := by
  decide

/-- R127's example and corner cases. -/
theorem test_tf_enc :
    tfEnc 0xB8 0x12345 = (0, [0x2E, 0x01, 0x23, 0x45]) ∧ tfEnc 0x03 0 = (2, [0xC0]) ∧ tfEnc 0 1 = (1, [0, 0, 1]) ∧
    tfEnc 0xFF 0xFFFFF = (0, [0xFF, 0x0F, 0xFF, 0xFF]) ∧ tfEnc 0 0 = (3, []) := by decide

/-- R131's corner cases: the port modes at the ends of the range. -/
theorem test_port_enc :
    portEnc 0xF0B1 0xF0B2 = (3, [0x12]) ∧ portEnc 0xF0B5 0x1234 = (2, [0xB5, 0x12, 0x34]) ∧
    portEnc 0x1234 0xF0BF = (1, [0x12, 0x34, 0xBF]) ∧ portEnc 0xF0C0 0xF0B0 = (1, [0xF0, 0xC0, 0xB0]) ∧
    portEnc 0xF012 0x0035 = (0, [0xF0, 0x12, 0x00, 0x35]) := by decide

/-- Vector E-1 (R138). -/
theorem test_encode_e1 :
    yields (.encode packetE1 macS macD) tiny (fun t =>
      t.out == [did .ok (.encoded [0x7E, 0x33, 0xF3, 0x12, 0xAB, 0xCD, 0xDE, 0xAD, 0xBE, 0xEF] 48)] &&
        t.tagCtr == 0) = true := by decide

/-- Vector E-4: a context with id 0 still gets its extension byte. -/
theorem test_encode_e4 :
    yields (.encode packetE4 (.short 0x12 0x34) shAB) afterC2 (fun t =>
      t.out == [did .ok (.encoded ([0x7A, 0xD1, 0x00, 0x3A, 0, 0, 0, 0, 0, 0, 0x12, 0x34] ++
        [0, 0, 0, 0, 0, 0, 0, 1, 0x80, 0, 0, 0]) 40)]) = true := by decide

/-! ### Fragmenter -/

/-- Vector F-10: B = 13, 30 bytes, four frames and one tag. -/
theorem test_fragment_f10 :
    yields (.fragment (List.ofFn fun i : Fin 30 => BitVec.ofNat 8 i.val) sh2) tiny (fun t =>
      t.tagCtr == 1 && t.out ==
        [.link sh2 [0xC0, 0x1E, 0, 0, 0x00, 0x01, 0x02, 0x03, 0x04, 0x05, 0x06, 0x07] .ok,
         .link sh2 [0xE0, 0x1E, 0, 0, 1, 0x08, 0x09, 0x0A, 0x0B, 0x0C, 0x0D, 0x0E, 0x0F] .ok,
         .link sh2 [0xE0, 0x1E, 0, 0, 2, 0x10, 0x11, 0x12, 0x13, 0x14, 0x15, 0x16, 0x17] .ok,
         .link sh2 [0xE0, 0x1E, 0, 0, 3, 0x18, 0x19, 0x1A, 0x1B, 0x1C, 0x1D] .ok, did .ok (.sent 4)]) = true := by decide

/-- Vector F-7 with B = 13: the second frame fails, the rest is not sent, the tag 0xFFFF is consumed and wraps (F-6). -/
theorem test_fragment_failure :
    yields (.fragment (List.replicate 30 0x60) sh2) { tiny with verdicts := [.ok, .fail, .ok], tagCtr := 0xFFFF } (fun t =>
      t.tagCtr == 0 && t.verdicts == [.ok] && t.out ==
        [.link sh2 ([0xC0, 0x1E, 0xFF, 0xFF] ++ List.replicate 8 0x60) .ok,
         .link sh2 ([0xE0, 0x1E, 0xFF, 0xFF, 1] ++ List.replicate 8 0x60) .fail,
         did .linkTransmitFailure (.sent 1)]) = true := by decide

/-- R151: SEND of the packet of R138 is one frame, since its 10 bytes fit B = 13. -/
theorem test_send :
    yields (.send packetE1 macS macD) tiny (fun t =>
      t.tagCtr == 0 && t.out ==
        [.link macD [0x7E, 0x33, 0xF3, 0x12, 0xAB, 0xCD, 0xDE, 0xAD, 0xBE, 0xEF] .ok, did .ok (.sent 1)]) = true := by decide

/-- R151, R122, R180: with OUT_CAP one byte short, nothing is sent and the status comes without a count. -/
theorem test_send_too_small :
    yields (.send packetE1 macS macD) { tiny with cfg := { tiny.cfg with outCap := 51 } } (fun t =>
      t.verdicts == tiny.verdicts && t.out == [did .bufferTooSmall .none]) = true := by decide

/-- The first frame of vector F-10, by itself. -/
theorem test_txFrag1 :
    yields (.txFrag1 30 0 [0, 1, 2, 3, 4, 5, 6, 7] sh2) tiny (fun t =>
      t.out == [.link sh2 [0xC0, 0x1E, 0, 0, 0, 1, 2, 3, 4, 5, 6, 7] .ok]) = true := by decide

/-- The last frame of vector F-10, by itself. -/
theorem test_txFragN :
    yields (.txFragN 30 0 3 [0x18, 0x19, 0x1A, 0x1B, 0x1C, 0x1D] sh2) tiny (fun t =>
      t.out == [.link sh2 [0xE0, 0x1E, 0, 0, 3, 0x18, 0x19, 0x1A, 0x1B, 0x1C, 0x1D] .ok]) = true := by decide

/-! ### Receiving -/

/-- Vectors D-3 and D-4: one byte is stripped; a frame of one byte delivers an empty packet. -/
theorem test_rxUncomp :
    yields (.rxUncomp [0x41, 0x60, 0x00] sh1 sh2) tiny (fun t => t.out == [.ip [0x60, 0x00], got .deliveredIp]) = true ∧
    yields (.recv [0x41] sh1 sh2) tiny (fun t => t.out == [.ip [], got .deliveredIp]) = true := by decide

/-- Vector D-6: the frame goes whole, with both addresses and its length. -/
theorem test_rxIphc :
    yields (.rxIphc [0x7F, 0x33] sh1 sh2) tiny (fun t => t.out == [.decoder [0x7F, 0x33] sh1 sh2 2, got .toDecoder]) =
      true := by decide

/-- Vectors D-1 and D-7. -/
theorem test_rxUnknown :
    yields (.rxUnknown [] sh1 sh2) tiny (fun t => t.stat.rxUnknown == 1 && t.out == [got .dropUnknown]) = true ∧
    yields (.rxUnknown [0x80] sh1 sh2) tiny (fun t => t.stat.rxUnknown == 1) = true := by decide

/-- Vectors R-1 to R-3: truncated, size 0, more data than size. -/
theorem test_rxFrag1_corrupt :
    [[0xC0, 0x0A, 0x00], [0xC0, 0, 0, 1, 0xAA], [0xC0, 2, 0, 1, 0xAA, 0xBB, 0xCC]].all (fun f =>
      yields (.rxFrag1 f sh1 sh2) afterR4 (fun t =>
        t.reass == afterR4.reass && t.stat.rxCorrupt == 1 && t.out == [got .dropCorrupt])) = true := by decide

/-- Vectors R-4 to R-7: a new entry, a duplicate, a replacement by tag and one by size. -/
theorem test_rxFrag1_table :
    let f := fun (size tag : Byte) => [0xC0, size, 0, tag, 0, 1, 2, 3, 4, 5, 6, 7]
    yields (.rxFrag1 (f 20 7) sh1 sh2) tiny (fun t => t.reass == afterR4.reass && t.out == [got .fragAccepted]) = true ∧
    yields (.rxFrag1 (f 20 7) sh1 sh2) afterR4 (fun t =>
      t.reass == afterR4.reass && t.stat.rxDupFrag1 == 1 && t.out == [got .dropDup]) = true ∧
    yields (.rxFrag1 (f 20 8) sh1 sh2) afterR4 (fun t =>
      t.reass == [{ entry4 with tag := 8 }, ReassSlot.free] && t.stat.reassReplaced == 1) = true ∧
    yields (.recv (f 21 7) sh1 sh2) afterR4 (fun t => t.reass == [{ entry4 with size := 21 }, ReassSlot.free]) = true := by
  decide

/-- Vectors R-13 to R-15 and R-17: another tag, another sender, a wrong offset, no data. -/
theorem test_rxFragN :
    let f := fun (tag off : Byte) => [0xE0, 20, 0, tag, off]
    yields (.rxFragN (f 9 1 ++ [8, 9]) sh1 sh2) afterR4 (fun t =>
      t.reass == afterR4.reass && t.stat.rxNoEntry == 1 && t.out == [got .dropNoEntry]) = true ∧
    yields (.rxFragN (f 7 1 ++ [8, 9]) sh2 sh1) afterR4 (fun t => t.stat.rxNoEntry == 1) = true ∧
    yields (.rxFragN (f 7 2 ++ [8, 9]) sh1 sh2) afterR4 (fun t =>
      t.reass.all (fun e => !e.valid) && t.stat.rxOffsetMismatch == 1 && t.out == [got .dropOffset]) = true ∧
    yields (.rxFragN (f 7 1) sh1 sh2) afterR4 (fun t => t.reass == afterR4.reass && t.out == [got .fragAccepted]) = true := by
  decide

/-- Vectors R-16 and R-18: 13 bytes overflow; 12 complete a datagram whose first byte is bad. Program A's last frame is the
good one (size 10, tag 5). -/
theorem test_rxFragN_end :
    yields (.rxFragN ([0xE0, 20, 0, 7, 1] ++ List.replicate 13 0) sh1 sh2) afterR4 (fun t =>
      t.stat.rxCorrupt == 1 && t.stat.reassComplete == 0) = true ∧
    yields (.rxFragN ([0xE0, 20, 0, 7, 1] ++ List.replicate 12 0) sh1 sh2) afterR4 (fun t =>
      t.stat.rxCorrupt == 1 && t.stat.reassComplete == 1 && t.out == [got .dropCorrupt]) = true ∧
    yields (.recv [0xE0, 10, 0, 5, 1, 0xBE, 0xEF] sh1 sh2)
      { tiny with reass := [{ entry4 with tag := 5, size := 10, buf := [0x7E, 0x33, 0xF3, 0x12, 0xAB, 0xCD, 0xDE, 0xAD] }] }
      (fun t => t.stat.reassComplete == 1 && t.reass.all (fun e => !e.valid) &&
        t.out == [.decoder [0x7E, 0x33, 0xF3, 0x12, 0xAB, 0xCD, 0xDE, 0xAD, 0xBE, 0xEF] sh1 sh2 10, got .reassToDecoder]) =
      true := by decide

/-- Vectors T-1 to T-3. -/
theorem test_tick :
    yields .tick afterR4 (fun t => t.reass == [{ entry4 with ttl := 2 }, ReassSlot.free] && t.out == [did .ok .none]) = true ∧
    yields .tick { tiny with reass := [{ entry4 with ttl := 1 }] } (fun t =>
      t.reass.all (fun e => !e.valid) && t.stat.reassTimeout == 1) = true ∧
    yields .tick tiny (fun t => t.reass == tiny.reass && t.stat == Stats.zero) = true := by decide

/-- Vector T-4: two entries; the contexts and the tag counter stay. -/
theorem test_flush :
    yields .flush { afterC2 with reass := [entry4, { entry4 with sender := sh2 }], tagCtr := 5 } (fun t =>
      t.reass.all (fun e => !e.valid) && t.stat.reassFlushed == 2 && t.ctx == afterC2.ctx && t.tagCtr == 5 &&
        t.out == [did .ok .none]) = true := by decide

/-- Vectors K-1 and K-2. -/
theorem test_reserved :
    [Instr.reservedCmd0, .reservedCmd9, .reservedCmdA, .reservedCmdB, .reservedCmdC, .reservedCmdD, .reservedCmdE,
      .reservedCmdF].all (fun i =>
        yields i afterR4 (fun t => t == { afterR4 with out := [did .illegalCommand .none] })) = true := by decide

/-! ### Steps -/

/-- Vector K-3: reset after a context, an entry, tag 5 and a counter at 2. -/
theorem test_reset_input :
    stepYields { afterC2 with
        reass := [entry4, entry4], tagCtr := 5, stat := { Stats.zero with rxCorrupt := 2 }, inputs := [.reset] } (fun t =>
      t.ctx.all (fun c => !c.inUse) && t.reass.all (fun e => !e.valid) && t.tagCtr == 0 && t.stat == Stats.zero &&
        t.out == [] && t.inputs == []) = true := by decide

/-- R46: the statistics port; R195: nothing presented; R7: an address of one byte sets the mark. -/
theorem test_ports :
    stepYields { tiny with inputs := [.readStats] } (fun t => t == { tiny with out := [.stats Stats.zero] }) = true ∧
    stepYields tiny (fun t => t == tiny) = true ∧
    stepYields { tiny with inputs := [.word (.send [0x60] [1] [0, 2])] } (fun t => t == { tiny with refused := true }) =
      true := by decide

/-- A table word placed at reset is the first thing executed: TICK (R170), and LOOKUPCTX 0 (R102). -/
theorem test_withFetchWord :
    stepYields (State.reset.withFetchWord 4 7) (fun t => t.out == [did .ok .none]) = true ∧
    stepYields (State.reset.withFetchWord 4 3) (fun t => t.out == [did .ok (.context false 0)]) = true := by decide

/-! ### Witnesses: values that meet the hypotheses of each statement, clause by clause

`tiny.cfg.admitted = true` is `test_refused_configurations`; it is repeated where a statement asks for it. -/

/-- A run of instructions reaches a next state. -/
def runs (is : List Instr) (s : State) : Bool :=
  match execAll is s with
  | .next _ => true
  | .fault _ => false
  | .refused _ => false

/-- DecodeOfEncode: a well-formed instruction of every form that has a check. -/
theorem witness_DecodeOfEncode :
    [Instr.setctx 15 0, .encode packetE1 macS macD, .send packetE4 sh1 shAB, .fragment [0] sh2, .recv [] sh1 sh2,
      .rxUncomp [0x41] sh1 sh2, .rxIphc [0x7F] sh1 sh2, .rxFrag1 [0xC7] sh1 sh2, .rxFragN [0xE7] sh1 sh2,
      .rxUnknown [0xFF] sh1 sh2, .txFrag1 2047 0xFFFF (List.replicate 8 0) sh2, .txFragN 14 0 1 (List.replicate 6 0) sh2].all
      (fun i => i.wf tiny.cfg) = true := by decide

/-- FragmentHeadersReadBack: frames of exactly a header. -/
theorem witness_FragmentHeadersReadBack :
    frameClass [0xC7, 0xFF, 0xFF, 0xFF] = .frag1 ∧ parseFrag1 [0xC7, 0xFF, 0xFF, 0xFF] = some (0x7FF, 0xFFFF, []) ∧
    frameClass [0xE0, 1, 0, 2, 0xFF] = .fragN ∧ parseFragN [0xE0, 1, 0, 2, 0xFF] = some (1, 2, 0xFF, []) := by decide

/-- StepRunsDecodedWord: a word that decodes and one that does not. -/
theorem witness_StepRunsDecodedWord :
    (presentWord tiny (.command 7 {})).inputs = .word (.command 7 {}) :: [] ∧ decode (.command 7 {}) = .instr .tick ∧
    (presentWord tiny (.send [] [] [])).inputs = .word (.send [] [] []) :: [] ∧
    decode (.send [] [] []) = .rejected .badAddressLength := by decide

/-- StepWithoutWord and ResetInput: nothing presented, a statistics read, a reset with a word behind it. -/
theorem witness_StepWithoutWord_ResetInput :
    tiny.inputs = [] ∧ { tiny with inputs := [.readStats] }.inputs = .readStats :: [] ∧
    { tiny with inputs := [.reset, .word (.command 7 {})] }.inputs = .reset :: [.word (.command 7 {})] := by decide

/-- SetctxResult, first clause, at the last slot of a full table. -/
theorem witness_SetctxResult_overwrite :
    afterC2.cfg.admitted = true ∧ afterC2.ctx[1]? = some ⟨true, 5, 0x20010db800000005⟩ ∧
    ∀ (j : Nat) (d : CtxSlot), j < 1 → afterC2.ctx[j]? = some d → ¬(d.inUse = true ∧ d.id = 5) := by
  refine ⟨by decide, by decide, fun j d hj hd => ?_⟩
  obtain rfl : j = 0 := by omega
  cases hd
  decide

/-- SetctxResult, second clause: id 7 is in no slot; slot 1 is the lowest free one. -/
theorem witness_SetctxResult_free :
    let s := { afterC2 with ctx := [⟨true, 0, 0⟩, CtxSlot.free] }
    s.cfg.admitted = true ∧ (∀ d ∈ s.ctx, ¬(d.inUse = true ∧ d.id = 7)) ∧ s.ctx[1]? = some CtxSlot.free ∧
    CtxSlot.free.inUse = false ∧
    ∀ (j : Nat) (d : CtxSlot), j < 1 → s.ctx[j]? = some d → d.inUse = true := by
  refine ⟨by decide, by decide, by decide, by decide, fun j d hj hd => ?_⟩
  obtain rfl : j = 0 := by omega
  cases hd
  decide

/-- SetctxResult, third clause: id 7 against a full table; LookupctxResult, second clause: id 7 is in no slot. -/
theorem witness_SetctxResult_full_LookupctxResult_miss :
    afterC2.cfg.admitted = true ∧ (∀ d ∈ afterC2.ctx, ¬(d.inUse = true ∧ d.id = 7)) ∧ ∀ d ∈ afterC2.ctx, d.inUse = true := by
  decide

/-- RmctxResult and LookupctxResult, first clause: id 0 in slot 0. -/
theorem witness_RmctxResult_LookupctxResult_hit :
    afterC2.cfg.admitted = true ∧ afterC2.ctx[0]? = some ⟨true, 0, 0x20010db800000000⟩ ∧
    ∀ (j : Nat) (d : CtxSlot), j < 0 → afterC2.ctx[j]? = some d → ¬(d.inUse = true ∧ d.id = 0) :=
  ⟨by decide, by decide, fun _ _ hj _ => absurd hj (Nat.not_lt_zero _)⟩

/-- ContextReadBack: SETCTX 5 that succeeds, RMCTX 5, and a lookup of another id. -/
theorem witness_ContextReadBack :
    afterC2.cfg.admitted = true ∧
    yields (.setctx 5 9) afterC2 (fun t => t.out == afterC2.out ++ [did .ok .none]) = true ∧
    yields (.rmctx 5) afterC2 (fun _ => true) = true ∧
    exec (.lookupctx 0) afterC2 =
      .next { afterC2 with out := afterC2.out ++ [did .ok (.context true 0x20010db800000000)] } :=
  ⟨by decide, by decide, by decide, rfl⟩

/-- PrefixLookupLowestSlot: the address of vector E-4 has the prefix of slot 0; fe80:: has no slot. -/
theorem witness_PrefixLookupLowestSlot :
    (slice packetE4 8 24).length = 16 ∧ afterC2.ctx[0]? = some ⟨true, 0, 0x20010db800000000⟩ ∧
    prefixBytes 0x20010db800000000 = (slice packetE4 8 24).take 8 ∧ (slice packetE4 24 40).length = 16 ∧
    ∀ d ∈ afterC2.ctx, ¬(d.inUse = true ∧ prefixBytes d.pfx = (slice packetE4 24 40).take 8) := by decide

/-- UnicastAddressRebuilds: an address of 16 bytes for each of the modes 3, 2 and 1. -/
theorem witness_UnicastAddressRebuilds :
    let A := fun low : ByteString => List.replicate 8 0x20#8 ++ low
    (A (derivedIid macS)).length = 16 ∧ ucastMode (A (derivedIid macS)) macS = 3 ∧
    (A (derivedIid sh1)).length = 16 ∧ ucastMode (A (derivedIid sh1)) macS = 2 ∧
    (A (derivedIid euiS)).length = 16 ∧ ucastMode (A (derivedIid euiS)) macS = 1 := by decide

/-- AddressPaths: a link-local address, one under a context, one under none, and a multicast one. -/
theorem witness_AddressPaths :
    let A := slice packetE4 8 24
    let B := slice packetE4 24 40
    let M := 0xFF#8 :: List.replicate 15 0
    A.length = 16 ∧ B.length = 16 ∧ M.length = 16 ∧ B.take 8 = [0xFE, 0x80, 0, 0, 0, 0, 0, 0] ∧
    A.take 8 ≠ [0xFE, 0x80, 0, 0, 0, 0, 0, 0] ∧ lookupByPrefix afterC2.ctx A = some 0 ∧ lookupByPrefix [] A = none ∧
    byteAt M 0 = 0xFF ∧ byteAt A 0 ≠ 0xFF := by decide

/-- DerivedIidByLength: an address of each length. -/
theorem witness_DerivedIidByLength :
    sh1.toBytes.length = 2 ∧ macS.toBytes.length = 6 ∧ euiS.toBytes.length = 8 := by decide

/-- MulticastAddressRebuilds: a multicast address of 16 bytes for each mode. -/
theorem witness_MulticastAddressRebuilds :
    let M := fun (sc : Byte) (low : ByteString) => [0xFF, sc, 0, 0, 0, 0, 0, 0] ++ low
    [(M 2 [0, 0, 0, 0, 0, 0, 0, 9], 3#2), (M 2 [0, 0, 0, 0, 0, 0, 1, 9], 2#2), (M 3 [0, 0, 0, 0, 0, 0, 0, 9], 2#2),
      (M 2 [0, 0, 0, 1, 0, 0, 0, 9], 1#2), (M 2 [0, 0, 1, 0, 0, 0, 0, 9], 0#2)].all
      (fun p => p.1.length == 16 && isMulticast p.1 && mcastMode p.1 == p.2) = true := by decide

/-- EncodeResult, HeaderLengthReadBack, EncoderNeverEmits, SendIsEncodeThenFragment: a UDP packet that
just fits its buffer, and one without UDP. -/
theorem witness_EncodeResult :
    let s := { tiny with cfg := { tiny.cfg with outCap := 52 } }
    s.cfg.admitted = true ∧ packetOk packetE1 = true ∧ packetE1.length ≤ s.cfg.outCap ∧ packetOk packetE4 = true ∧
    packetE4.length ≤ s.cfg.outCap ∧ (byteAt (compress s.ctx packetE1 macS macD) 0).extractLsb' 2 1 = 1#1 := by decide

/-- EncodeRefusalAndCapacity: a packet one byte longer than the buffer that meets the precondition, byte by byte, and one
that does not; and IphcByteFields: a datagram with CID = 1. -/
theorem witness_EncodeRefusalAndCapacity_IphcByteFields :
    let s := { tiny with cfg := { tiny.cfg with outCap := 51 } }
    s.cfg.admitted = true ∧ s.cfg.outCap < packetE1.length ∧ 40 ≤ packetE1.length ∧ (byteAt packetE1 0).toNat / 16 = 6 ∧
    (byteAt packetE1 4).toNat * 256 + (byteAt packetE1 5).toNat = packetE1.length - 40 ∧
    (byteAt packetE1 6 = 17 → 48 ≤ packetE1.length ∧
      (byteAt packetE1 44).toNat * 256 + (byteAt packetE1 45).toNat = packetE1.length - 40) ∧
    ¬40 ≤ ([] : ByteString).length ∧
    (byteAt (compress afterC2.ctx packetE4 sh1 shAB) 1).extractLsb' 7 1 = 1#1 := by decide

/-- FragmentRejections: the empty datagram, and one byte too many. -/
theorem witness_FragmentRejections :
    tiny.cfg.admitted = true ∧ ([] : ByteString) = [] ∧ 2047 < (List.replicate 2048 0#8).length :=
  ⟨by decide, rfl, by rw [List.length_replicate]; decide⟩

/-- FragmentSingleFrame: exactly the budget, with a verdict put and with none (the free value). -/
theorem witness_FragmentSingleFrame :
    tiny.cfg.admitted = true ∧ List.replicate 13 0#8 ≠ [] ∧ (List.replicate 13 0#8).length ≤ 2047 ∧
    (List.replicate 13 0#8).length ≤ tiny.cfg.budget ∧ tiny.verdicts = .ok :: [.ok, .ok, .ok] ∧
    { tiny with verdicts := [] }.verdicts = [] := by decide

/-- FragmentEmission: one byte more than the budget, with verdicts for its two frames; FragmentCount and
FragmentFramesCarryDatagram with B = 13, where 14 bytes need two frames and 18 need three. -/
theorem witness_FragmentEmission_FragmentCount :
    let c := List.replicate 14 0#8
    let d := List.replicate 18 0#8
    tiny.cfg.admitted = true ∧ tiny.cfg.budget = 13 ∧ 13 < c.length ∧ c.length ≤ 2047 ∧ 13 < d.length ∧ d.length ≤ 2047 ∧
    tiny.verdicts = List.replicate (fragFrames 13 tiny.tagCtr c).length .ok ++ [.ok, .ok] ∧ c.length - 8 ≤ 13 - 5 ∧
    ¬d.length - 8 ≤ 13 - 5 ∧ (fragFrames 13 0 d)[2]?.isSome = true := by decide

/-- SendIsEncodeThenFragment: a refused packet, one the buffer cannot hold, and one that fits the budget of 52. -/
theorem witness_SendIsEncodeThenFragment :
    let s := { tiny with cfg := { tiny.cfg with linkMtu := 54, outCap := 52 } }
    s.cfg.admitted = true ∧ packetOk [] = false ∧ packetOk packetE1 = true ∧ packetE1.length ≤ s.cfg.outCap ∧
    packetE1.length ≤ s.cfg.budget ∧ packetE1.length ≤ 2047 ∧ s.verdicts = .ok :: [.ok, .ok, .ok] ∧
    { s with cfg := { s.cfg with outCap := 51 } }.cfg.outCap < packetE1.length := by decide

/-- TransmitRowsEmitOneFrame: a first fragment; the last continuation of F-10 and one that is not the last. -/
theorem witness_TransmitRowsEmitOneFrame :
    tiny.cfg.admitted = true ∧ tiny.cfg.budget < (14#11).toNat ∧ 8 = (tiny.cfg.budget - 4) / 8 * 8 ∧
    (tiny.cfg.budget - 4) / 8 * 8 ≤ (1#8).toNat * 8 ∧ (1#8).toNat * 8 < (14#11).toNat ∧
    6 = (if (14#11).toNat - (1#8).toNat * 8 ≤ tiny.cfg.budget - 5 then (14#11).toNat - (1#8).toNat * 8
      else (tiny.cfg.budget - 5) / 8 * 8) ∧
    8 = (if (30#11).toNat - (1#8).toNat * 8 ≤ tiny.cfg.budget - 5 then (30#11).toNat - (1#8).toNat * 8
      else (tiny.cfg.budget - 5) / 8 * 8) := by decide

/-- RecvRunsItsClass, SingleFrameResults, ReservedCodesIllegal: an admitted configuration and the ends of the ranges. -/
theorem witness_SingleFrameResults :
    tiny.cfg.admitted = true ∧ (0x60 ≤ (0x60#8).toNat ∧ (0x60#8).toNat ≤ 0x7F) ∧
    (0x60 ≤ (0x7F#8).toNat ∧ (0x7F#8).toNat ≤ 0x7F) ∧ frameClass [] = .unknown ∧ frameClass [0x5F] = .unknown ∧
    Instr.reservedCmdF ∈ [Instr.reservedCmd0, .reservedCmd9, .reservedCmdA, .reservedCmdB, .reservedCmdC, .reservedCmdD,
      .reservedCmdE, .reservedCmdF] := by decide

/-- FirstFragmentCorrupt: three bytes of header; size 0; one data byte more than the size. -/
theorem witness_FirstFragmentCorrupt :
    let size := fun f : ByteString => (byteAt f 0).toNat % 8 * 256 + (byteAt f 1).toNat
    tiny.cfg.admitted = true ∧ frameClass [0xC0, 10, 0] = .frag1 ∧ [0xC0#8, 10, 0].length < 4 ∧
    frameClass [0xC0, 0, 0, 1] = .frag1 ∧ size [0xC0, 0, 0, 1] = 0 ∧
    frameClass [0xC0, 1, 0, 1, 0xAA, 0xBB] = .frag1 ∧
    size [0xC0, 1, 0, 1, 0xAA, 0xBB] < [0xC0#8, 1, 0, 1, 0xAA, 0xBB].length - 4 := by decide

/-- FirstFragmentTable, sender with an entry, in slot 1: a duplicate and a differing first fragment. -/
theorem witness_FirstFragmentTable_entry :
    let s := { tiny with reass := [{ entry4 with sender := sh2 }, entry4] }
    s.cfg.admitted = true ∧ (List.replicate 20 0#8).length ≤ (20#11).toNat ∧ (20#11 : Size) ≠ 0 ∧
    (List.replicate 19 0#8).length < (20#11).toNat ∧ s.reass[1]? = some entry4 ∧
    entry4.valid = true ∧ entry4.sender = sh1 ∧
    (∀ (j : Nat) (d : ReassSlot), j < 1 → s.reass[j]? = some d → ¬(d.valid = true ∧ d.sender = sh1)) ∧
    (entry4.tag = 7 ∧ entry4.size = 20) ∧ ¬(entry4.tag = 8 ∧ entry4.size = 20) := by
  refine ⟨by decide, by decide, by decide, by decide, by decide, by decide, by decide, fun j d hj hd => ?_, by decide,
    by decide⟩
  obtain rfl : j = 0 := by omega
  cases hd
  decide

/-- FirstFragmentTable, sender without an entry: slot 1 is the lowest free one; and a full table. -/
theorem witness_FirstFragmentTable_new :
    let full := { tiny with reass := [entry4, entry4] }
    afterR4.cfg.admitted = true ∧ (1#11 : Size) ≠ 0 ∧ ([] : ByteString).length < (1#11).toNat ∧
    (∀ d ∈ afterR4.reass, ¬(d.valid = true ∧ d.sender = sh2)) ∧ afterR4.reass[1]? = some ReassSlot.free ∧
    ReassSlot.free.valid = false ∧ (∀ (j : Nat) (d : ReassSlot), j < 1 → afterR4.reass[j]? = some d → d.valid = true) ∧
    (∀ d ∈ full.reass, ¬(d.valid = true ∧ d.sender = sh2)) ∧ ∀ d ∈ full.reass, d.valid = true := by
  refine ⟨by decide, by decide, by decide, by decide, by decide, by decide, fun j d hj hd => ?_, by decide, by decide⟩
  obtain rfl : j = 0 := by omega
  cases hd
  decide

/-- FirstFragmentCompletes: one byte of datagram in place of the sender's entry (slot 0), and in the lowest free slot (1). -/
theorem witness_FirstFragmentCompletes :
    tiny.cfg.admitted = true ∧ [0x41#8].length = (1#11).toNat ∧ (1#11 : Size) ≠ 0 ∧ afterR4.reass[0]? = some entry4 ∧
    entry4.valid = true ∧ entry4.sender = sh1 ∧ ¬(entry4.tag = 7 ∧ entry4.size = 1) ∧
    afterR4.reass[1]? = some ReassSlot.free ∧ ReassSlot.free.valid = false ∧
    (∀ d ∈ afterR4.reass, ¬(d.valid = true ∧ d.sender = sh2)) ∧
    ∀ (j : Nat) (d : ReassSlot), j < 1 → afterR4.reass[j]? = some d → d.valid = true := by
  refine ⟨by decide, by decide, by decide, by decide, by decide, by decide, by decide, by decide, by decide, by decide,
    fun j d hj hd => ?_⟩
  obtain rfl : j = 0 := by omega
  cases hd
  decide

/-- ContinuationNoEntry: four bytes of header; the sender's entry under another tag; a sender with none. -/
theorem witness_ContinuationNoEntry :
    afterR4.cfg.admitted = true ∧ frameClass [0xE0, 20, 0, 7] = .fragN ∧ [0xE0#8, 20, 0, 7].length < 5 ∧
    (∀ d ∈ afterR4.reass, d.valid = true → d.sender = sh1 → ¬(d.tag = 9 ∧ d.size = 20)) ∧
    ∀ d ∈ afterR4.reass, d.valid = true → d.sender = sh2 → ¬(d.tag = 7 ∧ d.size = 20) := by decide

/-- ContinuationDiscardsEntry and ContinuationAccepted: the entry of R-4 with offset 16 (mismatch), and at offset 8 with 13
data bytes (overflow), 12 (complete), 11 and 0 (short of the size). -/
theorem witness_Continuation :
    afterR4.cfg.admitted = true ∧ afterR4.reass[0]? = some entry4 ∧ entry4.valid = true ∧
    (∀ (j : Nat) (d : ReassSlot), j < 0 → afterR4.reass[j]? = some d → ¬(d.valid = true ∧ d.sender = entry4.sender)) ∧
    (2#8).toNat * 8 ≠ entry4.rlen.toNat ∧ (1#8).toNat * 8 = entry4.rlen.toNat ∧
    entry4.size.toNat < entry4.rlen.toNat + 13 ∧ entry4.rlen.toNat + 12 = entry4.size.toNat ∧
    entry4.rlen.toNat + 11 < entry4.size.toNat ∧ entry4.rlen.toNat + 0 < entry4.size.toNat :=
  ⟨by decide, by decide, by decide, fun _ _ hj _ => absurd hj (Nat.not_lt_zero _), by decide, by decide, by decide, by decide,
    by decide, by decide⟩

/-- TickResult: entries with ttl 1 and 2, and a free slot; FlushResult: the same. -/
theorem witness_TickResult :
    let s := { tiny with
      cfg := { tiny.cfg with nReass := 3 }
      reass := [{ entry4 with ttl := 1 }, { entry4 with ttl := 2, sender := sh2 }, ReassSlot.free] }
    s.cfg.admitted = true ∧ (∀ e ∈ s.reass, e.valid = true → 1 ≤ e.ttl.toNat) ∧
    s.reass[0]?.map (fun e => e.ttl.toNat) = some 1 ∧ s.reass[1]?.map (fun e => decide (2 ≤ e.ttl.toNat)) = some true ∧
    s.reass[2]?.map (·.valid) = some false := by decide

/-- StepKeepsInv, RefusedNeverCleared, ConfigurationFixed: a legal state, with the mark set, whose next step runs. -/
theorem witness_StepKeepsInv :
    let s := { afterR4 with inputs := [.word (.command 7 {})], refused := true }
    s.Inv ∧ stepYields s (fun _ => true) = true ∧ s.refused = true := by decide

/-- OtherSendersUntouched: a frame from S' against the entry of S. -/
theorem witness_OtherSendersUntouched :
    yields (.recv [0xE0, 20, 0, 7, 2] sh2 sh1) afterR4 (fun _ => true) = true ∧ afterR4.reass[0]? = some entry4 ∧
    entry4.valid = true ∧ entry4.sender ≠ sh2 := by decide

/-- TimeoutLaw: Program C in short, with exactly REASS_TIMEOUT ticks and a continuation between them. -/
theorem witness_TimeoutLaw :
    let is := [Instr.tick, .tick, .recv [0xE0, 20, 0, 7, 1, 9] sh1 sh2, .tick]
    afterR4.Inv ∧ (∀ i ∈ is, i.startsEntry sh1 = false) ∧ afterR4.cfg.reassTimeout ≤ is.count .tick ∧
    runs is afterR4 = true := by decide

/-- FragmentThenReassemble: B = 13 and a datagram of 14 bytes, received where another sender has an entry. -/
theorem witness_FragmentThenReassemble :
    let cdg := 0x60#8 :: List.replicate 13 0#8
    afterR4.Inv ∧ 13 ≤ 13 ∧ 13 < cdg.length ∧ cdg.length ≤ 2047 ∧ frameClass cdg = .iphc ∧
    (∀ e ∈ afterR4.reass, ¬(e.valid = true ∧ e.sender = sh2)) ∧ ∃ e ∈ afterR4.reass, e.valid = false := by decide

/-- RefusalExactly: a refused and an admitted instruction. -/
theorem witness_RefusalExactly :
    (tiny.cfg.admitted && (Instr.fragment [] sh2).wf tiny.cfg) = false ∧
    (({ tiny.cfg with nCtx := 0 } : Configuration).admitted && Instr.tick.wf tiny.cfg) = false ∧
    (tiny.cfg.admitted && (Instr.fragment [0x60] sh2).wf tiny.cfg) = true := by decide

/-- OnlyContextCommandsWriteContexts, OnlyReceiveWritesReassembly: FRAGMENT is one of the others; OnlyFragmentWritesTag: it
moves the tag. -/
theorem witness_OnlyWriters :
    yields (.fragment (List.replicate 14 0) sh2) afterC2 (fun t => t.tagCtr != afterC2.tagCtr) = true ∧
    (Instr.fragment (List.replicate 14 0) sh2).isReceive = false ∧ Instr.fragment (List.replicate 14 0) sh2 ≠ .tick ∧
    Instr.fragment (List.replicate 14 0) sh2 ≠ .flush := by decide

/-- CountersByCommand: a counter of each kind moves. -/
theorem witness_CountersByCommand :
    yields .tick { afterR4 with reass := [{ entry4 with ttl := 1 }] } (fun t =>
      t.stat.get .reassTimeout != afterR4.stat.get .reassTimeout) = true ∧
    yields .flush afterR4 (fun t => t.stat.get .reassFlushed != afterR4.stat.get .reassFlushed) = true ∧
    yields (.rxUnknown [] sh1 sh2) afterR4 (fun t => t.stat.get .rxUnknown != afterR4.stat.get .rxUnknown) = true := by
  decide

/-- StatusByCommand, OutputsOnlyAppended, EarlyErrorsWriteNothing: a SETCTX that fails presents its completion. -/
theorem witness_EarlyErrorsWriteNothing :
    yields (.setctx 7 0) afterC2 (fun t =>
      completions (t.out.drop afterC2.out.length) == [⟨.outOfContexts, none, .none⟩]) = true ∧
    Status.outOfContexts ∈ [Status.outOfContexts, .bufferTooSmall, .datagramTooLarge, .illegalCommand] := by decide

end Sys2Proof.Tests
end

/-! ### Scope (00_scope.md): O51. -/

namespace Sys2Proof.Machine

/-- FRAGMENT leaves the mark alone (R32). -/
@[simp] theorem fragmentDatagram_refused (cdg : ByteString) (d : LinkAddr) (s : State) :
    (fragmentDatagram cdg d s).refused = s.refused := by
  obtain ⟨⟨-, -, -, -, hmark, -⟩, -⟩ := fragmentDatagram_spec cdg d s
  exact hmark

/-- SEND leaves the mark alone, whether or not FRAGMENT runs (R32, R151). -/
@[simp] theorem sendPacket_refused (pkt : ByteString) (a b : LinkAddr) (s : State) :
    (sendPacket pkt a b s).refused = s.refused := by
  rw [sendPacket_eq]
  split
  · exact State.complete_refused ..
  · exact fragmentDatagram_refused ..

/-- The class rules of RECV and the completion after them leave the mark alone (R32, R155). -/
@[simp] theorem finishRx_rxClass_refused (c : FrameClass) (f : ByteString) (S R : LinkAddr) (s : State) :
    (finishRx (rxClass c f S R s)).refused = s.refused := by
  obtain ⟨-, -, -, hmark, -⟩ := rxClass_frame c f S R s
  exact hmark

/-- Every instruction asks for exactly the operands `Instr.wf` names, under an admitted configuration, and what it then leads
to has the mark as it was (R19, R32). -/
theorem exec_eq_accept_wf (i : Instr) (s : State) :
    ∃ t, exec i s = s.accept (i.wf s.cfg) t ∧ t.refused = s.refused := by
  cases i with
  | setctx id pfx =>
    obtain ⟨-, -, -, -, hmark⟩ := setContext_frame id pfx s
    exact ⟨_, rfl, hmark⟩
  | rmctx => exact ⟨_, rfl, State.complete_refused ..⟩
  | lookupctx id =>
    obtain ⟨-, -, -, -, -, hmark⟩ := lookupContext_frame id s
    exact ⟨_, rfl, hmark⟩
  | encode pkt a b =>
    obtain ⟨-, -, -, -, -, hmark⟩ := encodePacket_frame pkt a b s
    exact ⟨_, rfl, hmark⟩
  | fragment => exact ⟨_, rfl, fragmentDatagram_refused ..⟩
  | send => exact ⟨_, rfl, sendPacket_refused ..⟩
  | recv f S R => exact ⟨_, rfl, finishRx_rxClass_refused (frameClass f) f S R s⟩
  | rxUncomp f S R => exact ⟨_, rfl, finishRx_rxClass_refused .uncomp f S R s⟩
  | rxIphc f S R => exact ⟨_, rfl, finishRx_rxClass_refused .iphc f S R s⟩
  | rxFrag1 f S R => exact ⟨_, rfl, finishRx_rxClass_refused .frag1 f S R s⟩
  | rxFragN f S R => exact ⟨_, rfl, finishRx_rxClass_refused .fragN f S R s⟩
  | rxUnknown f S R => exact ⟨_, rfl, finishRx_rxClass_refused .unknown f S R s⟩
  | txFrag1 => exact ⟨_, rfl, State.emitFrame_refused ..⟩
  | txFragN => exact ⟨_, rfl, State.emitFrame_refused ..⟩
  | tick => exact ⟨_, rfl, State.complete_refused ..⟩
  | flush => exact ⟨_, rfl, State.complete_refused ..⟩
  | reservedCmd0 | reservedCmd9 | reservedCmdA | reservedCmdB | reservedCmdC | reservedCmdD | reservedCmdE
  | reservedCmdF => exact ⟨_, rfl, State.complete_refused ..⟩

end Sys2Proof.Machine

namespace Sys2Proof.Proofs.Scope

open Sys2Proof.Machine

/-- Settles O51: the one test every instruction makes is that of its configuration and operands (`exec_eq_accept_wf`), and
either side of it says what becomes of the mark. -/
theorem refusalExactly : Obligations.RefusalExactly := by
  intro s i
  obtain ⟨t, hexec, hmark⟩ := exec_eq_accept_wf i s
  constructor
  · intro hbad
    exact hexec.trans (State.accept_of_not t hbad)
  · intro hok
    obtain ⟨hcfg, hwf⟩ := Bool.and_eq_true_iff.mp hok
    exact ⟨t, hexec.trans (State.accept_of_ok t hcfg hwf), hmark⟩

end Sys2Proof.Proofs.Scope

/-! ### State (10_state.md): O7, O8, O10, O46, O47, O52, O53, O55, O56, O57. -/

namespace Sys2Proof.Machine

/-! What one step does with each input (R40, R46, R47, R195). -/

/-- Taking the next input leaves the inputs after it. -/
theorem State.dropInput_of_cons {s : State} {x : PortInput} {rest : List PortInput} (h : s.inputs = x :: rest) :
    s.dropInput = { s with inputs := rest } := by
  simp [State.dropInput, h]

theorem step_of_no_input {s : State} (h : s.inputs = []) : step s = .next s := by
  simp [step, takeInput, h]

theorem step_of_readStats {s : State} {rest : List PortInput} (h : s.inputs = .readStats :: rest) :
    step s = .next (s.dropInput.present (.stats s.stat)) := by
  simp [step, takeInput, h]

theorem step_of_reset {s : State} {rest : List PortInput} (h : s.inputs = .reset :: rest) :
    step s = .next s.dropInput.doReset := by
  simp [step, takeInput, h]

theorem step_of_instr {s : State} {w : PortWord} {rest : List PortInput} {i : Instr} (h : s.inputs = .word w :: rest)
    (hw : decode w = .instr i) : step s = exec i s.dropInput := by
  simp [step, takeInput, takeWord, h, hw]

theorem step_of_rejected {s : State} {w : PortWord} {rest : List PortInput} {e : DecodeError}
    (h : s.inputs = .word w :: rest) (hw : decode w = .rejected e) : step s = .next s.dropInput.refuse := by
  simp [step, takeInput, takeWord, h, hw]

/-! Keys held at most once in a table (R25, R27 a), by slot number. -/

section UniqueKeys

variable {α κ : Type} {p : α → Bool} {key : α → κ} {l : List α}

/-- No two slots that pass the test hold the same key: the common form of `uniqueIds` and `uniqueSenders`. -/
abbrev UniqueKeys (p : α → Bool) (key : α → κ) (l : List α) : Prop :=
  l.Pairwise fun a b => p a = true → p b = true → key a ≠ key b

theorem uniqueKeys_iff :
    UniqueKeys p key l ↔ ∀ (j k : Nat) (a b : α), j ≠ k → l[j]? = some a → l[k]? = some b →
      p a = true → p b = true → key a ≠ key b := by
  rw [UniqueKeys, List.pairwise_iff_getElem]
  constructor
  · intro h j k a b hjk hj hk ha hb
    obtain ⟨hjl, rfl⟩ := List.getElem?_eq_some_iff.mp hj
    obtain ⟨hkl, rfl⟩ := List.getElem?_eq_some_iff.mp hk
    rcases Nat.lt_or_gt_of_ne hjk with hlt | hgt
    · exact h j k hjl hkl hlt ha hb
    · exact (h k j hkl hjl hgt hb ha).symm
  · intro h j k hj hk hlt
    exact h j k _ _ (by omega) (List.getElem?_eq_getElem hj) (List.getElem?_eq_getElem hk)

/-- A slot may be written with any entry whose key no other slot holds. -/
theorem UniqueKeys.set {k : Nat} {e : α} (h : UniqueKeys p key l)
    (hkey : p e = true → ∀ (j : Nat) (d : α), j ≠ k → l[j]? = some d → p d = true → key d ≠ key e) :
    UniqueKeys p key (l.set k e) := by
  rw [uniqueKeys_iff] at h ⊢
  intro i j a b hij hi hj ha hb
  by_cases hik : i = k
  · subst hik
    rw [List.getElem?_set_ne hij] at hj
    obtain ⟨-, rfl⟩ := by simpa [List.getElem?_set_self'] using hi
    exact (hkey ha j b hij.symm hj hb).symm
  · rw [List.getElem?_set_ne (Ne.symm hik)] at hi
    by_cases hjk : j = k
    · subst hjk
      obtain ⟨-, rfl⟩ := by simpa [List.getElem?_set_self'] using hj
      exact hkey hb i a hik hi ha
    · rw [List.getElem?_set_ne (Ne.symm hjk)] at hj
      exact h i j a b hij hi hj ha hb

/-- A change that keeps the key of every slot that still passes the test keeps the keys unique. -/
theorem UniqueKeys.map {f : α → α} (h : UniqueKeys p key l)
    (hf : ∀ a, p (f a) = true → p a = true ∧ key (f a) = key a) : UniqueKeys p key (l.map f) := by
  refine List.Pairwise.map f (fun a b hab ha hb => ?_) h
  obtain ⟨hpa, hka⟩ := hf a ha
  obtain ⟨hpb, hkb⟩ := hf b hb
  rw [hka, hkb]
  exact hab hpa hpb

/-- A table in which no slot passes the test holds no key twice. -/
theorem uniqueKeys_replicate {n : Nat} {a : α} (ha : p a = false) : UniqueKeys p key (List.replicate n a) :=
  List.pairwise_replicate.mpr (.inr fun h => by simp [ha] at h)

end UniqueKeys

/-! The context table of a legal state (R24, R25). -/

/-- The context table's part of `State.Inv`. -/
structure CtxTableOk (cfg : Configuration) (l : List CtxSlot) : Prop where
  length : l.length = cfg.nCtx
  ids : UniqueKeys CtxSlot.inUse CtxSlot.id l

/-- SETCTX keeps the context table legal (R100): it overwrites the one slot that holds the id, or takes a free slot when none
does. -/
theorem setContext_keeps_ctxTableOk {cfg : Configuration} {s : State} (id : CtxId) (pfx : Prefix64)
    (h : CtxTableOk cfg s.ctx) : CtxTableOk cfg (setContext id pfx s).ctx := by
  unfold setContext
  split
  next k c hfound =>
    obtain ⟨hk, hholds, -⟩ := findSlot_eq_some hfound
    obtain ⟨huse, -⟩ : c.inUse = true ∧ c.id = id := by simpa [CtxSlot.holds] using hholds
    refine ⟨by simpa using h.length, h.ids.set fun _ j d hjk hj hd => ?_⟩
    exact uniqueKeys_iff.mp h.ids j k d c hjk hj hk hd huse
  next hnone =>
    split
    · refine ⟨by simpa using h.length, h.ids.set fun _ j d _ hj hd => ?_⟩
      simpa [CtxSlot.holds, hd] using findSlot_eq_none.mp hnone d (List.mem_of_getElem? hj)
    · exact h

/-- RMCTX keeps the context table legal (R101): it only frees slots. -/
theorem removeContext_keeps_ctxTableOk {cfg : Configuration} {s : State} (id : CtxId) (h : CtxTableOk cfg s.ctx) :
    CtxTableOk cfg (removeContext id s).ctx := by
  refine ⟨by simpa [removeContext] using h.length, h.ids.map fun c huse => ?_⟩
  split at huse
  · simp at huse
  · simp_all

/-! The reassembly table of a legal state (R26, R27). -/

/-- The reassembly table's part of `State.Inv`. -/
structure ReassTableOk (cfg : Configuration) (l : List ReassSlot) : Prop where
  length : l.length = cfg.nReass
  senders : UniqueKeys ReassSlot.valid ReassSlot.sender l
  legal : ∀ e ∈ l, ReassSlot.Legal cfg e

/-- A slot may be written with a legal entry whose sender no other slot holds. -/
theorem ReassTableOk.set {cfg : Configuration} {l : List ReassSlot} {k : Nat} {e : ReassSlot} (h : ReassTableOk cfg l)
    (hkey : e.valid = true → ∀ (j : Nat) (d : ReassSlot), j ≠ k → l[j]? = some d → d.valid = true → d.sender ≠ e.sender)
    (hlegal : ReassSlot.Legal cfg e) : ReassTableOk cfg (l.set k e) where
  length := by simpa using h.length
  senders := h.senders.set hkey
  legal d hd := (List.mem_or_eq_of_mem_set hd).elim (h.legal d) (fun hde => hde ▸ hlegal)

/-- A change of every slot that keeps legal entries legal and senders as they are keeps the table legal. -/
theorem ReassTableOk.map {cfg : Configuration} {l : List ReassSlot} {f : ReassSlot → ReassSlot} (h : ReassTableOk cfg l)
    (hkey : ∀ e, (f e).valid = true → e.valid = true ∧ (f e).sender = e.sender)
    (hlegal : ∀ e, ReassSlot.Legal cfg e → ReassSlot.Legal cfg (f e)) : ReassTableOk cfg (l.map f) where
  length := by simpa using h.length
  senders := h.senders.map hkey
  legal := by
    intro d hd
    obtain ⟨e, he, rfl⟩ := List.mem_map.mp hd
    exact hlegal e (h.legal e he)

/-- The timeout of an admitted configuration fits the ttl's 8 bits and is not 0 (R6). -/
theorem reassTimeout_bounds_of_admitted {cfg : Configuration} (h : cfg.admitted = true) :
    1 ≤ cfg.reassTimeout ∧ cfg.reassTimeout ≤ 255 := by
  obtain ⟨-, -, -, -, -, hmin, hmax⟩ := of_decide_eq_true h
  exact ⟨hmin, hmax⟩

/-- The entry of a first fragment that is short of its size is legal (R162, R169). -/
theorem newEntry_legal {cfg : Configuration} (hcfg : cfg.admitted = true) (S : LinkAddr) {size : Size} (tag : Tag)
    {data : ByteString} (hlen : data.length < size.toNat) : ReassSlot.Legal cfg (newEntry cfg S size tag data) := by
  intro _
  obtain ⟨hmin, hmax⟩ := reassTimeout_bounds_of_admitted hcfg
  have hsize := size.isLt
  simp only [newEntry, BitVec.toNat_ofNat]
  omega

/-- An entry grown by data that leave it short of its size stays legal (R168): no other field moves. -/
theorem grownEntry_legal {cfg : Configuration} {e : ReassSlot} {data : ByteString} (hv : e.valid = true)
    (h : ReassSlot.Legal cfg e) (hlen : e.rlen.toNat + data.length < e.size.toNat) :
    ReassSlot.Legal cfg { e with buf := e.buf ++ data, rlen := e.rlen + BitVec.ofNat 11 data.length } := by
  intro _
  obtain ⟨hbuf, hrlen, httl⟩ := h hv
  have hsize := e.size.isLt
  have hgrown : (e.rlen + BitVec.ofNat 11 data.length).toNat = e.rlen.toNat + data.length := by
    simp only [BitVec.toNat_add, BitVec.toNat_ofNat]
    omega
  exact ⟨by simp [hgrown, hbuf], by simpa [hgrown] using hlen, httl⟩

/-- A received frame keeps the reassembly table legal (R161 to R168): the one slot it may write held the sender's entry, or
was free while the sender had none, and holds a legal entry of that sender or nothing after it. -/
theorem rxClass_keeps_reassTableOk {s : State} (hcfg : s.cfg.admitted = true) (c : FrameClass) (f : ByteString)
    (S R : LinkAddr) (h : ReassTableOk s.cfg s.reass) : ReassTableOk s.cfg (rxClass c f S R s).1.reass := by
  rcases rxClass_reass c f S R s with hsame | ⟨k, old, e', hk, hset, hold, hnew⟩
  · rwa [hsame]
  have others : old.valid = true → ∀ (j : Nat) (d : ReassSlot), j ≠ k → s.reass[j]? = some d → d.valid = true →
      d.sender ≠ S := by
    intro hv j d hjk hj hd
    rw [← hold hv]
    exact uniqueKeys_iff.mp h.senders j k d old hjk hj hk hd hv
  rw [hset]
  refine h.set (fun hv j d hjk hj hd => ?_) (fun hv => ?_)
  · rcases hnew hv with ⟨-, ⟨size, tag, data, rfl, -⟩, ⟨-, hnone⟩ | hv'⟩ | ⟨-, hv', data, -, rfl⟩
    · exact fun hS => hnone d (List.mem_of_getElem? hj) ⟨hd, hS⟩
    · exact others hv' j d hjk hj hd
    · exact fun hS => others hv' j d hjk hj hd (hS.trans (hold hv'))
  · rcases hnew hv with ⟨-, ⟨size, tag, data, rfl, hlen⟩, -⟩ | ⟨-, hv', data, hlen, rfl⟩
    · exact newEntry_legal hcfg S tag hlen hv
    · exact grownEntry_legal hv' (h.legal old (List.mem_of_getElem? hk)) hlen hv

/-- A slot valid after a sweep held the same sender's entry before it (R170). -/
theorem sweepSlot_sender {e : ReassSlot} (hv : (sweepSlot e).valid = true) :
    e.valid = true ∧ (sweepSlot e).sender = e.sender := by
  unfold sweepSlot at hv ⊢
  split at hv
  · split at hv <;> simp_all
  · contradiction

/-- An entry that survives a sweep is legal still (R170): its ttl was above 1 and is one less. -/
theorem sweepSlot_legal {cfg : Configuration} {e : ReassSlot} (h : ReassSlot.Legal cfg e) :
    ReassSlot.Legal cfg (sweepSlot e) := by
  intro hv
  obtain ⟨hbuf, hrlen, hmin, hmax⟩ := h (sweepSlot_sender hv).1
  obtain ⟨-, heq⟩ := sweepSlot_valid (sweepSlot_sender hv).1 hmin
  rw [heq] at hv ⊢
  split at hv
  · simp at hv
  · rename_i hne
    have httl := e.ttl.isLt
    rw [if_neg hne]
    simp only [BitVec.toNat_ofNat]
    omega

/-- TICK keeps the reassembly table legal (R170). -/
theorem sweep_keeps_reassTableOk {cfg : Configuration} {s : State} (h : ReassTableOk cfg s.reass) :
    ReassTableOk cfg (sweep s).reass :=
  h.map (fun _ => sweepSlot_sender) (fun _ => sweepSlot_legal)

/-- FLUSH keeps the reassembly table legal (R172): it only frees slots. -/
theorem flushAll_keeps_reassTableOk {cfg : Configuration} {s : State} (h : ReassTableOk cfg s.reass) :
    ReassTableOk cfg (flushAll s).reass :=
  h.map (fun _ hv => by simp at hv) (fun _ _ hv => by simp at hv)

/-! What each instruction changes of the block's own state (R53). -/

/-- The second state holds what the first does in every field the spec gives the block (R23 to R32); the ports and the
link's verdicts, which are the environment's side, may differ. -/
structure SameHeld (s t : State) : Prop where
  cfg : t.cfg = s.cfg
  ctx : t.ctx = s.ctx
  reass : t.reass = s.reass
  tagCtr : t.tagCtr = s.tagCtr
  stat : t.stat = s.stat
  refused : t.refused = s.refused

/-- What an instruction that ran, or was refused, did to the block's own state: for each instruction, the fields it may
write and with what. -/
inductive ExecEffect (s t : State) : Instr → Prop
  | refused {i : Instr} (h : SameHeld s.refuse t) : ExecEffect s t i
  | quiet {i : Instr} (h : SameHeld s t) : ExecEffect s t i
  | setctx {id : CtxId} {pfx : Prefix64} (h : SameHeld (s.setCtx (setContext id pfx s).ctx) t) :
      ExecEffect s t (.setctx id pfx)
  | rmctx {id : CtxId} (h : SameHeld (s.setCtx (removeContext id s).ctx) t) : ExecEffect s t (.rmctx id)
  | nextTag {i : Instr} (hi : (∃ cdg d, i = .fragment cdg d) ∨ ∃ pkt a b, i = .send pkt a b)
      (h : SameHeld (s.setTag (s.tagCtr + 1)) t) : ExecEffect s t i
  | receive {i : Instr} (hi : i.isReceive = true) {c : FrameClass} {f : ByteString} {S R : LinkAddr}
      (h : t = finishRx (rxClass c f S R s)) : ExecEffect s t i
  | tick (h : t = sweep s) : ExecEffect s t .tick
  | flush (h : t = flushAll s) : ExecEffect s t .flush

/-- FRAGMENT writes nothing the block holds but the tag counter, and that only by adding one (R144). -/
theorem fragmentDatagram_held (cdg : ByteString) (d : LinkAddr) (s : State) :
    SameHeld s (fragmentDatagram cdg d s) ∨ SameHeld (s.setTag (s.tagCtr + 1)) (fragmentDatagram cdg d s) := by
  obtain ⟨⟨hcfg, hctx, hreass, hstat, hmark, -⟩, htag, -⟩ := fragmentDatagram_spec cdg d s
  split at htag
  · exact .inr ⟨hcfg, hctx, hreass, htag, hstat, hmark⟩
  · exact .inl ⟨hcfg, hctx, hreass, htag, hstat, hmark⟩

/-- SEND writes what FRAGMENT does (R151). -/
theorem sendPacket_held (pkt : ByteString) (a b : LinkAddr) (s : State) :
    SameHeld s (sendPacket pkt a b s) ∨ SameHeld (s.setTag (s.tagCtr + 1)) (sendPacket pkt a b s) := by
  rw [sendPacket_eq]
  split
  · exact .inl ⟨rfl, rfl, rfl, rfl, rfl, rfl⟩
  · exact fragmentDatagram_held ..

/-- A frame handed to the link leaves what the block holds as it was (R45). -/
theorem emitFrame_held (d : LinkAddr) (F : ByteString) (s : State) : SameHeld s (s.emitFrame d F) := by
  constructor <;> simp

/-- Every instruction's effect on what the block holds is that of its row. -/
theorem exec_effect {s t : State} {i : Instr} (h : exec i s = .next t) : ExecEffect s t i := by
  rcases exec_cases h with rfl | ⟨id, pfx, rfl, rfl⟩ | ⟨id, rfl, rfl⟩ | ⟨id, rfl, rfl⟩ | ⟨pkt, a, b, rfl, rfl⟩ |
    ⟨cdg, d, rfl, rfl⟩ | ⟨pkt, a, b, rfl, rfl⟩ | (⟨size, tag, data, d, rfl, rfl⟩ | ⟨size, tag, off8, data, d, rfl, rfl⟩) |
    ⟨hi, c, f, S, R, ht, -⟩ | ⟨rfl, ht⟩ | ⟨rfl, ht⟩ | ⟨-, -, rfl⟩
  · exact .refused ⟨rfl, rfl, rfl, rfl, rfl, rfl⟩
  · obtain ⟨hcfg, hreass, htag, hstat, hmark⟩ := setContext_frame id pfx s
    exact .setctx ⟨hcfg, rfl, hreass, htag, hstat, hmark⟩
  · exact .rmctx ⟨rfl, rfl, rfl, rfl, rfl, rfl⟩
  · obtain ⟨hcfg, hctx, hreass, htag, hstat, hmark⟩ := lookupContext_frame id s
    exact .quiet ⟨hcfg, hctx, hreass, htag, hstat, hmark⟩
  · obtain ⟨hcfg, hctx, hreass, htag, hstat, hmark⟩ := encodePacket_frame pkt a b s
    exact .quiet ⟨hcfg, hctx, hreass, htag, hstat, hmark⟩
  · exact (fragmentDatagram_held cdg d s).elim .quiet (.nextTag (.inl ⟨cdg, d, rfl⟩))
  · exact (sendPacket_held pkt a b s).elim .quiet (.nextTag (.inr ⟨pkt, a, b, rfl⟩))
  · exact .quiet (emitFrame_held ..)
  · exact .quiet (emitFrame_held ..)
  · exact .receive hi ht
  · exact .tick ht
  · exact .flush ht
  · exact .quiet ⟨rfl, rfl, rfl, rfl, rfl, rfl⟩

/-- A received frame and its completion leave alone what the class rule does (R155). -/
theorem finishRx_rxClass_frame (c : FrameClass) (f : ByteString) (S R : LinkAddr) (s : State) :
    SameButReceive s (finishRx (rxClass c f S R s)) :=
  rxClass_frame c f S R s

/-- No instruction writes the configuration (R23). -/
theorem exec_cfg {s t : State} {i : Instr} (h : exec i s = .next t) : t.cfg = s.cfg := by
  cases exec_effect h with
  | refused held | quiet held | setctx held | rmctx held | nextTag _ held => exact held.cfg
  | @receive _ _ c f S R held =>
    obtain ⟨hcfg, -⟩ := finishRx_rxClass_frame c f S R s
    exact held ▸ hcfg
  | tick held | flush held => exact held ▸ rfl

/-- No instruction clears the mark (R32). -/
theorem exec_keeps_refused {s t : State} {i : Instr} (h : exec i s = .next t) (hs : s.refused = true) :
    t.refused = true := by
  cases exec_effect h with
  | refused held => exact held.refused
  | quiet held | setctx held | rmctx held | nextTag _ held => exact held.refused.trans hs
  | receive _ held => rw [held, finishRx_rxClass_refused, hs]
  | tick held | flush held => exact held ▸ hs

/-! The invariant (R6, R24 to R27). -/

/-- The invariant, table by table. -/
theorem State.inv_iff {s : State} :
    s.Inv ↔ s.cfg.admitted = true ∧ CtxTableOk s.cfg s.ctx ∧ ReassTableOk s.cfg s.reass := by
  constructor
  · rintro ⟨hcfg, hctxLen, hreassLen, hids, hsenders, hlegal⟩
    exact ⟨hcfg, ⟨hctxLen, hids⟩, ⟨hreassLen, hsenders, hlegal⟩⟩
  · rintro ⟨hcfg, ⟨hctxLen, hids⟩, ⟨hreassLen, hsenders, hlegal⟩⟩
    exact ⟨hcfg, hctxLen, hreassLen, hids, hsenders, hlegal⟩

/-- The invariant speaks of what the block holds alone. -/
theorem SameHeld.inv {s t : State} (h : SameHeld s t) (hs : s.Inv) : t.Inv := by
  rw [State.inv_iff, h.cfg, h.ctx, h.reass]
  exact State.inv_iff.mp hs

/-- Every instruction keeps the invariant. -/
theorem exec_keeps_inv {s t : State} {i : Instr} (hs : s.Inv) (h : exec i s = .next t) : t.Inv := by
  obtain ⟨hcfg, hctx, hreass⟩ := State.inv_iff.mp hs
  cases exec_effect h with
  | refused held | quiet held | nextTag _ held => exact held.inv hs
  | setctx held => exact held.inv (State.inv_iff.mpr ⟨hcfg, setContext_keeps_ctxTableOk _ _ hctx, hreass⟩)
  | rmctx held => exact held.inv (State.inv_iff.mpr ⟨hcfg, removeContext_keeps_ctxTableOk _ hctx, hreass⟩)
  | @receive _ _ c f S R held =>
    obtain ⟨hcfg', hctx', -⟩ := finishRx_rxClass_frame c f S R s
    rw [held, State.inv_iff, hcfg', hctx']
    exact ⟨hcfg, hctx, rxClass_keeps_reassTableOk hcfg c f S R hreass⟩
  | tick held => exact held ▸ State.inv_iff.mpr ⟨hcfg, hctx, sweep_keeps_reassTableOk hreass⟩
  | flush held => exact held ▸ State.inv_iff.mpr ⟨hcfg, hctx, flushAll_keeps_reassTableOk hreass⟩

/-- A reset leaves the invariant under every admitted configuration, whatever the tables held (R35, R200). -/
theorem State.doReset_inv {s : State} (hcfg : s.cfg.admitted = true) : s.doReset.Inv := by
  refine State.inv_iff.mpr ⟨hcfg, ⟨List.length_replicate, uniqueKeys_replicate rfl⟩,
    ⟨List.length_replicate, uniqueKeys_replicate rfl, fun e he hv => ?_⟩⟩
  rw [List.eq_of_mem_replicate he] at hv
  contradiction

/-- Every step keeps the invariant. -/
theorem step_keeps_inv {s t : State} (hs : s.Inv) (h : step s = .next t) : t.Inv := by
  have hdrop : SameHeld s s.dropInput := ⟨rfl, rfl, rfl, rfl, rfl, rfl⟩
  rcases step_cases h with rfl | rfl | rfl | rfl | ⟨i, hi⟩
  · exact hs
  · exact State.doReset_inv (hdrop.inv hs).1
  · exact SameHeld.inv ⟨rfl, rfl, rfl, rfl, rfl, rfl⟩ hs
  · exact hdrop.inv hs
  · exact exec_keeps_inv (hdrop.inv hs) hi

/-- Every counter is 0 after reset (R35). -/
@[simp] theorem Stats.get_zero (c : Counter) : Stats.zero.get c = 0 := by
  cases c <;> rfl

end Sys2Proof.Machine

namespace Sys2Proof.Proofs.StateFamily

open Sys2Proof.Machine

/-- Settles O47: the configuration is never written, and each table's part of the invariant is kept by whatever writes that
table (`exec_keeps_inv`); a reset establishes both (`State.doReset_inv`). -/
theorem stepKeepsInv : Obligations.StepKeepsInv := fun _ _ => step_keeps_inv

/-- Settles O52: only a refusal writes the mark, and it sets it (`exec_keeps_refused`). -/
theorem refusedNeverCleared : Obligations.RefusedNeverCleared := by
  intro s t h hs
  rcases step_cases h with rfl | rfl | rfl | rfl | ⟨i, hi⟩
  · exact hs
  · exact hs
  · exact hs
  · rfl
  · exact exec_keeps_refused hi hs

/-- Settles O53: none of the five things a step can do writes the configuration (`exec_cfg` for an instruction). -/
theorem configurationFixed : Obligations.ConfigurationFixed := by
  intro s t h
  rcases step_cases h with rfl | rfl | rfl | rfl | ⟨i, hi⟩
  · rfl
  · rfl
  · rfl
  · rfl
  · exact (exec_cfg hi).trans s.dropInput_cfg

/-- Settles O55, by the effect of each instruction. -/
theorem onlyFragmentWritesTag : Obligations.OnlyFragmentWritesTag := by
  intro s t i h
  cases exec_effect h with
  | refused held | quiet held | setctx held | rmctx held => exact .inl held.tagCtr
  | nextTag hi held => exact .inr ⟨held.tagCtr, hi⟩
  | @receive _ _ c f S R held =>
    obtain ⟨-, -, htag, -⟩ := finishRx_rxClass_frame c f S R s
    exact .inl (held ▸ htag)
  | tick held | flush held => exact .inl (held ▸ rfl)

/-- Settles O56, by the effect of each instruction: the three that write either are the ones excluded. -/
theorem onlyReceiveWritesReassembly : Obligations.OnlyReceiveWritesReassembly := by
  intro s t i h hrx htick hflush
  cases exec_effect h with
  | refused held | quiet held | setctx held | rmctx held | nextTag _ held => exact ⟨held.reass, held.stat⟩
  | receive hi => simp [hrx] at hi
  | tick => contradiction
  | flush => contradiction

/-- Settles O57: a counter moves only by an instruction that may write it. TICK and FLUSH each add to one counter
(`Stats.get_add`), and a receive leaves those two as they were (`rxClass_frame`). -/
theorem countersByCommand : Obligations.CountersByCommand := by
  intro s t i c h hmoved
  cases exec_effect h with
  | refused held | quiet held | setctx held | rmctx held | nextTag _ held =>
    exact absurd (congrArg (Stats.get · c) held.stat) hmoved
  | @receive _ hi c' f S R held =>
    obtain ⟨-, -, -, -, -, -, -, htimeout, hflushed⟩ := finishRx_rxClass_frame c' f S R s
    rw [← held] at htimeout hflushed
    refine ⟨?_, ?_, fun _ _ => hi⟩
    · rintro rfl
      exact absurd htimeout hmoved
    · rintro rfl
      exact absurd hflushed hmoved
  | tick held =>
    have hc : c = .reassTimeout := by_contra fun hne => hmoved (by simp [held, sweep, hne])
    simp [hc]
  | flush held =>
    have hc : c = .reassFlushed := by_contra fun hne => hmoved (by simp [held, flushAll, hne])
    simp [hc]

/-- Settles O7: the step decodes the word at the head of the inputs, with that input taken. -/
theorem stepRunsDecodedWord : Obligations.StepRunsDecodedWord := by
  intro s w rest h
  have hdrop := State.dropInput_of_cons h
  refine ⟨fun i hw => ?_, fun e hw => ?_⟩
  · rw [step_of_instr h hw, hdrop]
  · rw [step_of_rejected h hw, hdrop]
    rfl

/-- Settles O8, one kind of input at a time. -/
theorem stepWithoutWord : Obligations.StepWithoutWord := by
  intro s rest
  refine ⟨step_of_no_input, fun h => ?_, fun h => ?_⟩
  · rw [step_of_readStats h, State.dropInput_of_cons h]
    rfl
  · exact ⟨_, step_of_reset h, by simp [h], rfl, rfl⟩

/-- Settles O10: both tables are built of free slots, as many as configured, and every counter is 0. -/
theorem resetState : Obligations.ResetState := by
  refine ⟨fun c hc => ?_, fun e he => ?_, List.length_replicate, List.length_replicate, rfl, Stats.get_zero⟩
  · rw [List.eq_of_mem_replicate hc]
    rfl
  · rw [List.eq_of_mem_replicate he]
    rfl

/-- Settles O46: the state after reset is one that a reset input leaves under an admitted configuration. -/
theorem invAtReset : Obligations.InvAtReset :=
  State.doReset_inv (s := State.reset) rfl

end Sys2Proof.Proofs.StateFamily

/-! ### Memory (20_memory.md): O48, O59. -/

namespace Sys2Proof.Machine

/-! Whose entries a received frame may change (R53, R174). -/

/-- RECV and the class rows of a frame all complete one of its class rules, with the frame's own addresses (R155). -/
theorem exec_receive_row {f : ByteString} {S R : LinkAddr} {i : Instr}
    (hi : i ∈ [Instr.recv f S R, .rxUncomp f S R, .rxIphc f S R, .rxFrag1 f S R, .rxFragN f S R, .rxUnknown f S R])
    (s : State) : ∃ b c, exec i s = s.accept b (finishRx (rxClass c f S R s)) := by
  simp only [List.mem_cons, List.not_mem_nil, or_false] at hi
  rcases hi with rfl | rfl | rfl | rfl | rfl | rfl
  · exact ⟨_, frameClass f, rfl⟩
  · exact ⟨_, .uncomp, rfl⟩
  · exact ⟨_, .iphc, rfl⟩
  · exact ⟨_, .frag1, rfl⟩
  · exact ⟨_, .fragN, rfl⟩
  · exact ⟨_, .unknown, rfl⟩

/-- The one slot a received frame may write was free or its sender's, so every other sender's entry stays (R53, R174). -/
theorem rxClass_keeps_other_senders {s : State} {S : LinkAddr} {k : Nat} {e : ReassSlot} (hk : s.reass[k]? = some e)
    (hv : e.valid = true) (hS : e.sender ≠ S) (c : FrameClass) (f : ByteString) (R : LinkAddr) :
    (rxClass c f S R s).1.reass[k]? = some e := by
  rcases rxClass_reass c f S R s with hsame | ⟨j, old, e', hj, hset, hold, -⟩
  · rw [hsame, hk]
  · have hjk : j ≠ k := by
      rintro rfl
      obtain rfl : old = e := Option.some.inj (hj.symm.trans hk)
      exact hS (hold hv)
    rw [hset, List.getElem?_set_ne hjk, hk]

/-! What one instruction adds to the outputs (R41, R58). -/

/-- From s to t frames went to the link, perhaps none, and then the status port presented one completion (R41, R45). -/
def SendsThenCompletes (s t : State) : Prop :=
  ∃ l c, onlyLinks l ∧ t.out = s.out ++ l ++ [.completion c]

theorem onlyLinks_nil : onlyLinks [] := by simp [onlyLinks]

theorem onlyLinks_singleton {d : LinkAddr} {F : ByteString} {v : Verdict} : onlyLinks [.link d F v] := by
  simp [onlyLinks]

@[simp] theorem completions_completion (c : Completion) : completions [.completion c] = [c] := rfl

/-- A completion with nothing presented before it (R41). -/
theorem sendsThenCompletes_complete {s u : State} (hu : u.out = s.out) (st : Status) (oc : Option RxOutcome)
    (r : CmdResult) : SendsThenCompletes s (u.complete st oc r) :=
  ⟨[], ⟨st, oc, r⟩, onlyLinks_nil, by simp [hu]⟩

/-- SETCTX presents its completion alone, in place, in a free slot or without one (R100). -/
theorem setContext_out (id : CtxId) (pfx : Prefix64) (s : State) : SendsThenCompletes s (setContext id pfx s) := by
  unfold setContext
  split
  · exact sendsThenCompletes_complete rfl ..
  · split
    · exact sendsThenCompletes_complete rfl ..
    · exact sendsThenCompletes_complete rfl ..

/-- LOOKUPCTX presents its completion alone, hit or miss (R102). -/
theorem lookupContext_out (id : CtxId) (s : State) : SendsThenCompletes s (lookupContext id s) := by
  unfold lookupContext
  split
  · exact sendsThenCompletes_complete rfl ..
  · exact sendsThenCompletes_complete rfl ..

/-- ENCODE presents its completion alone, whether or not the packet fits (R122, R123). -/
theorem encodePacket_out (pkt : ByteString) (a b : LinkAddr) (s : State) :
    SendsThenCompletes s (encodePacket pkt a b s) := by
  unfold encodePacket
  split
  · exact sendsThenCompletes_complete rfl ..
  · exact sendsThenCompletes_complete rfl ..

/-- FRAGMENT presents link frames and its completion, whatever the verdicts (R147, R148). -/
theorem fragmentDatagram_out (cdg : ByteString) (d : LinkAddr) (s : State) :
    SendsThenCompletes s (fragmentDatagram cdg d s) := by
  obtain ⟨-, -, ⟨-, heq⟩ | ⟨l, st, n, hl, hout, -⟩⟩ := fragmentDatagram_spec cdg d s
  · rw [heq]
    exact sendsThenCompletes_complete rfl ..
  · exact ⟨l, _, hl, hout⟩

/-- SEND presents what FRAGMENT does, or ENCODE's error alone (R151). -/
theorem sendPacket_out (pkt : ByteString) (a b : LinkAddr) (s : State) :
    SendsThenCompletes s (sendPacket pkt a b s) := by
  rw [sendPacket_eq]
  split
  · exact sendsThenCompletes_complete rfl ..
  · exact fragmentDatagram_out ..

/-- What one instruction adds to the outputs: frames alone (the transmit rows, and nothing at all at a refusal), frames and a
completion, or what a received frame delivers and its completion. -/
theorem exec_out {s t : State} {i : Instr} (h : exec i s = .next t) :
    (∃ l, onlyLinks l ∧ t.out = s.out ++ l) ∨ SendsThenCompletes s t ∨
      ∃ u c, OneDelivery s u ∧ t.out = u.out ++ [.completion c] := by
  rcases exec_cases h with rfl | ⟨id, pfx, -, rfl⟩ | ⟨id, -, rfl⟩ | ⟨id, -, rfl⟩ | ⟨pkt, a, b, -, rfl⟩ |
    ⟨cdg, d, -, rfl⟩ | ⟨pkt, a, b, -, rfl⟩ | (⟨size, tag, data, d, -, rfl⟩ | ⟨size, tag, off8, data, d, -, rfl⟩) |
    ⟨-, c, f, S, R, rfl, -⟩ | ⟨-, rfl⟩ | ⟨-, rfl⟩ | ⟨-, -, rfl⟩
  · exact .inl ⟨[], onlyLinks_nil, by simp⟩
  · exact .inr (.inl (setContext_out ..))
  · exact .inr (.inl (sendsThenCompletes_complete rfl ..))
  · exact .inr (.inl (lookupContext_out ..))
  · exact .inr (.inl (encodePacket_out ..))
  · exact .inr (.inl (fragmentDatagram_out ..))
  · exact .inr (.inl (sendPacket_out ..))
  · exact .inl ⟨_, onlyLinks_singleton, State.emitFrame_out ..⟩
  · exact .inl ⟨_, onlyLinks_singleton, State.emitFrame_out ..⟩
  · exact .inr (.inr ⟨_, _, rxClass_out c f S R s, State.complete_out ..⟩)
  · exact .inr (.inl (sendsThenCompletes_complete rfl ..))
  · exact .inr (.inl (sendsThenCompletes_complete rfl ..))
  · exact .inr (.inl (sendsThenCompletes_complete rfl ..))

end Sys2Proof.Machine

namespace Sys2Proof.Proofs.MemoryFamily

open Sys2Proof.Machine

/-- Settles O48: a receive row runs a class rule with the frame's own sender (`exec_receive_row`), and no class rule writes a
slot that holds another sender's entry (`rxClass_keeps_other_senders`). -/
theorem otherSendersUntouched : Obligations.OtherSendersUntouched := by
  intro s t f S R i hi h k e hk hv hS
  obtain ⟨b, c, hexec⟩ := exec_receive_row hi s
  rw [hexec] at h
  rcases State.accept_eq_next h with ⟨-, -, rfl⟩ | ⟨-, rfl⟩
  · exact rxClass_keeps_other_senders hk hv hS c f R
  · exact hk

/-- Settles O59, by what each instruction adds (`exec_out`): link frames are neither deliveries nor completions, and a
received frame is delivered at most once. -/
theorem outputsOnlyAppended : Obligations.OutputsOnlyAppended := by
  intro s t i h
  rcases exec_out h with ⟨l, hl, hout⟩ | ⟨l, c, hl, hout⟩ | ⟨u, c, hu, hout⟩
  · exact ⟨l, hout, by simp [countP_isDelivery_links hl], by simp [completions_links hl]⟩
  · refine ⟨l ++ [.completion c], by simp [hout], ?_, ?_⟩
    · simp [countP_isDelivery_links hl, Output.isDelivery]
    · simp [completions_links hl]
  · rcases hu with hu | ⟨P, hu⟩ | ⟨D, S, R, hu⟩
    · exact ⟨[.completion c], by rw [hout, hu], Nat.zero_le _, le_rfl⟩
    · exact ⟨[.ip P, .completion c], by simp [hout, hu], le_rfl, le_rfl⟩
    · exact ⟨[.decoder D S R D.length, .completion c], by simp [hout, hu], le_rfl, le_rfl⟩

end Sys2Proof.Proofs.MemoryFamily

/-! ### Encodings (30_encoding.md): O1, O2, O3, O4, O5, O16, O18, O25, O26, O27, O33, O45. -/

namespace Sys2Proof

open Sys2Proof.Machine

/-! Fragment headers (R85 to R87): the dispatch byte with size bits 10..8, the size, and the tag. -/

/-- The dispatch byte of a FRAG1 frame selects its class, whatever the size (R66, R85). -/
theorem classOfByte_frag1Dispatch (x : BitVec 3) : classOfByte ((0xC0 : Byte) ||| x.setWidth 8) = .frag1 := by
  revert x; decide

/-- The dispatch byte of a FRAGN frame selects its class, whatever the size (R66, R86). -/
theorem classOfByte_fragNDispatch (x : BitVec 3) : classOfByte ((0xE0 : Byte) ||| x.setWidth 8) = .fragN := by
  revert x; decide

/-- A byte of class FRAG1 is the dispatch with the byte's low three bits (R66, R85). -/
theorem frag1Dispatch_of_class {d : Byte} :
    classOfByte d = .frag1 → (0xC0 : Byte) ||| (d.extractLsb' 0 3).setWidth 8 = d := by
  revert d; decide

/-- A byte of class FRAGN is the dispatch with the byte's low three bits (R66, R86). -/
theorem fragNDispatch_of_class {d : Byte} :
    classOfByte d = .fragN → (0xE0 : Byte) ||| (d.extractLsb' 0 3).setWidth 8 = d := by
  revert d; decide

@[simp] theorem frameClass_frag1Frame (size : Size) (tag : Tag) (data : ByteString) :
    frameClass (frag1Frame size tag data) = .frag1 := classOfByte_frag1Dispatch _

@[simp] theorem frameClass_fragNFrame (size : Size) (tag : Tag) (off8 : Byte) (data : ByteString) :
    frameClass (fragNFrame size tag off8 data) = .fragN := classOfByte_fragNDispatch _

/-- Size bits 10..8 as a number (R85). -/
theorem size_high_toNat (size : Size) : (size.extractLsb' 8 3).toNat = size.toNat / 256 := by
  have := size.isLt
  simp only [BitVec.extractLsb'_toNat, Nat.shiftRight_eq_div_pow]
  omega

/-- Size bits 10..8 and 7..0 join to the size (R87). -/
theorem size_join (size : Size) : (size.extractLsb' 8 3 ++ size.extractLsb' 0 8 : BitVec 11) = size := by
  apply BitVec.eq_of_toNat_eq
  rw [append_toNat3, size_high_toNat, BitVec.extractLsb'_toNat, Nat.shiftRight_zero]
  omega

/-- The low three bits of a dispatch byte are the size bits put there (R85, R86). -/
theorem dispatch_low_bits {base : Byte} (hbase : base = 0xC0 ∨ base = 0xE0) (x : BitVec 3) :
    (base ||| x.setWidth 8).extractLsb' 0 3 = x := by
  rcases hbase with rfl | rfl <;> revert x <;> decide

/-- The size reads back from the first two bytes of a header (R87). -/
theorem headerSize_sizeBytes {base : Byte} (hbase : base = 0xC0 ∨ base = 0xE0) (size : Size) (rest : ByteString) :
    headerSize (sizeBytes base size ++ rest) = size := by
  change (base ||| (size.extractLsb' 8 3).setWidth 8).extractLsb' 0 3 ++ size.extractLsb' 0 8 = size
  rw [dispatch_low_bits hbase, size_join]

@[simp] theorem headerSize_frag1Frame (size : Size) (tag : Tag) (data : ByteString) :
    headerSize (frag1Frame size tag data) = size := by
  rw [frag1Frame, List.append_assoc, headerSize_sizeBytes (.inl rfl)]

@[simp] theorem headerSize_fragNFrame (size : Size) (tag : Tag) (off8 : Byte) (data : ByteString) :
    headerSize (fragNFrame size tag off8 data) = size := by
  rw [fragNFrame, List.append_assoc, List.append_assoc, headerSize_sizeBytes (.inr rfl)]

@[simp] theorem headerTag_frag1Frame (size : Size) (tag : Tag) (data : ByteString) :
    headerTag (frag1Frame size tag data) = tag := beBytes2_join tag

@[simp] theorem headerTag_fragNFrame (size : Size) (tag : Tag) (off8 : Byte) (data : ByteString) :
    headerTag (fragNFrame size tag off8 data) = tag := beBytes2_join tag

/-- A FRAG1 frame parses to the fields it was built from (R87). -/
@[simp] theorem parseFrag1_frag1Frame (size : Size) (tag : Tag) (data : ByteString) :
    parseFrag1 (frag1Frame size tag data) = some (size, tag, data) := by
  simp [parseFrag1_eq]

/-- A FRAGN frame parses to the fields it was built from (R87). -/
@[simp] theorem parseFragN_fragNFrame (size : Size) (tag : Tag) (off8 : Byte) (data : ByteString) :
    parseFragN (fragNFrame size tag off8 data) = some (size, tag, off8, data) := by
  have hoff : byteAt (fragNFrame size tag off8 data) 4 = off8 := rfl
  simp [parseFragN_eq, hoff]

/-- A frame of at least four bytes is the size bytes and the tag read from it, then the rest, where its first byte is the
dispatch with its own low bits (R85 to R87). -/
theorem frame_eq_header {F : ByteString} {base : Byte} (hlen : 4 ≤ F.length)
    (hbase : base ||| ((byteAt F 0).extractLsb' 0 3).setWidth 8 = byteAt F 0) :
    F = sizeBytes base (headerSize F) ++ beBytes2 (headerTag F) ++ F.drop 4 := by
  match F, hlen with
  | b0 :: b1 :: b2 :: b3 :: data, _ =>
    change base ||| (b0.extractLsb' 0 3).setWidth 8 = b0 at hbase
    have hsize : sizeBytes base (b0.extractLsb' 0 3 ++ b1) = [b0, b1] := by
      rw [sizeBytes, BitVec.extractLsb'_append_eq_left, BitVec.extractLsb'_append_eq_right, hbase]
    have htag : beBytes2 (b2 ++ b3) = [b2, b3] := by
      rw [beBytes2, BitVec.extractLsb'_append_eq_left, BitVec.extractLsb'_append_eq_right]
    change _ = sizeBytes base (b0.extractLsb' 0 3 ++ b1) ++ beBytes2 (b2 ++ b3) ++ data
    rw [hsize, htag]
    rfl

/-- The class of a frame that is not empty is that of its first byte (R66). -/
theorem frameClass_eq_classOfByte {F : ByteString} (h : 0 < F.length) : frameClass F = classOfByte (byteAt F 0) := by
  cases F with
  | nil => simp at h
  | cons d r => rfl

/-- A FRAG1 frame that parses is the one built from what is read (R85, R87). -/
theorem eq_frag1Frame_of_parse {F : ByteString} {size : Size} {tag : Tag} {data : ByteString}
    (hclass : frameClass F = .frag1) (hparse : parseFrag1 F = some (size, tag, data)) : F = frag1Frame size tag data := by
  rw [parseFrag1_eq] at hparse
  split at hparse
  case isTrue hlen =>
    cases hparse
    rw [frameClass_eq_classOfByte (by omega)] at hclass
    exact frame_eq_header hlen (frag1Dispatch_of_class hclass)
  case isFalse => cases hparse

/-- A FRAGN frame that parses is the one built from what is read (R86, R87). -/
theorem eq_fragNFrame_of_parse {F : ByteString} {size : Size} {tag : Tag} {off8 : Byte} {data : ByteString}
    (hclass : frameClass F = .fragN) (hparse : parseFragN F = some (size, tag, off8, data)) :
    F = fragNFrame size tag off8 data := by
  rw [parseFragN_eq] at hparse
  split at hparse
  case isTrue hlen =>
    cases hparse
    rw [frameClass_eq_classOfByte (by omega)] at hclass
    have hoff : F.drop 4 = [byteAt F 4] ++ F.drop 5 := by
      rw [List.drop_eq_getElem_cons (by omega)]
      simp [byteAt, List.getElem?_eq_getElem (show 4 < F.length by omega)]
    have hF := frame_eq_header (by omega) (fragNDispatch_of_class hclass)
    rw [hoff] at hF
    rw [fragNFrame, List.append_assoc, ← hF]
  case isFalse => cases hparse

/-! The header bytes as numbers (R85, R86). -/

/-- The dispatch byte as a number: the size bits add to it (R85, R86). -/
theorem dispatch_eq_ofNat {base : Byte} (hbase : base = 0xC0 ∨ base = 0xE0) (x : BitVec 3) :
    base ||| x.setWidth 8 = BitVec.ofNat 8 (base.toNat + x.toNat) := by
  rcases hbase with rfl | rfl <;> revert x <;> decide

/-- The size bytes as numbers (R85, R86). -/
theorem sizeBytes_eq {base : Byte} (hbase : base = 0xC0 ∨ base = 0xE0) (size : Size) :
    sizeBytes base size =
      [BitVec.ofNat 8 (base.toNat + size.toNat / 256), BitVec.ofNat 8 (size.toNat % 256)] := by
  have hlow : size.extractLsb' 0 8 = BitVec.ofNat 8 (size.toNat % 256) := by
    apply BitVec.eq_of_toNat_eq; simp [BitVec.extractLsb'_toNat]
  rw [sizeBytes, dispatch_eq_ofNat hbase, size_high_toNat, hlow]

/-! Decoding the words the block's rows have (R85, R86, R90). -/

/-- The word of a transmit row decodes to the row (R85). -/
theorem decodeTransmit_frag1Frame (size : Size) (tag : Tag) (data : ByteString) (d : LinkAddr) :
    decodeTransmit (frag1Frame size tag data) d.toBytes = .instr (.txFrag1 size tag data d) := by
  simp [decodeTransmit]

/-- The word of a transmit row decodes to the row (R86). -/
theorem decodeTransmit_fragNFrame (size : Size) (tag : Tag) (off8 : Byte) (data : ByteString) (d : LinkAddr) :
    decodeTransmit (fragNFrame size tag off8 data) d.toBytes = .instr (.txFragN size tag off8 data d) := by
  simp [decodeTransmit]

/-- A received frame decodes to the row of its class (R155). -/
theorem decode_receive (c : FrameClass) {f : ByteString} (hf : frameClass f = c) (a b : LinkAddr) :
    decode (.receive f a.toBytes b.toBytes) = .instr (classInstr c f a b) := by
  subst hf
  exact withAddrs_toBytes a b _

/-- The class of a dispatch byte by its value (R66). -/
theorem classOfByte_eq_ranges (d : Byte) :
    classOfByte d =
      if d.toNat = 0x41 then .uncomp
      else if 0x60 ≤ d.toNat ∧ d.toNat ≤ 0x7F then .iphc
      else if 0xC0 ≤ d.toNat ∧ d.toNat ≤ 0xC7 then .frag1
      else if 0xE0 ≤ d.toNat ∧ d.toNat ≤ 0xE7 then .fragN
      else .unknown := by
  revert d; decide

end Sys2Proof

namespace Sys2Proof.Machine

/-! Slices at the places the address rules read (R8). -/

/-- One byte as a slice (R8). -/
theorem slice_one {S : ByteString} {i : Nat} (h : i < S.length) : slice S i (i + 1) = [byteAt S i] := by
  rw [slice, List.drop_eq_getElem_cons h, byteAt, List.getD_eq_getElem _ _ h, Nat.add_sub_cancel_left]
  rfl

/-- A slice of zero bytes is as many zeros as it has bytes. -/
theorem allZero_iff {S : ByteString} {n : Nat} (hn : S.length = n) : allZero S = true ↔ S = List.replicate n 0x00#8 := by
  simp [allZero, List.eq_replicate_iff, hn]

/-! The unicast address mode (R110 to R114). -/

section Unicast

variable {A : ByteString} (hA : A.length = 16)
include hA

/-- The IID of an address is its second half (R110). -/
theorem slice_iid : slice A 8 16 = A.drop 8 := hA ▸ slice_to_end A 8

/-- The unicast mode on the address's second half (R112). -/
theorem ucastMode_eq (L : LinkAddr) :
    ucastMode A L =
      if A.drop 8 = derivedIid L then 3#2
      else if (A.drop 8).take 6 = [0x00, 0x00, 0x00, 0xFF, 0xFE, 0x00] then 2#2 else 1#2 := by
  simp only [ucastMode, isShortIid, slice_iid hA, beq_iff_eq]
  rfl

/-- The inline bytes number what R82 counts for the mode (R76, R114). -/
theorem ucastInline_length (mode : BitVec 2) : (ucastInline A mode).length = ucastLen mode := by
  have hmode : mode = 0 ∨ mode = 1 ∨ mode = 2 ∨ mode = 3 := by revert mode; decide
  rcases hmode with rfl | rfl | rfl | rfl <;> simp [ucastInline, ucastLen, hA]

/-- An IID with the short pattern is the pattern and the address's last two bytes (R111). -/
theorem iid_of_short {p : ByteString} (h : (A.drop 8).take 6 = p) : A.drop 8 = p ++ slice A 14 16 := by
  have hend : slice A 14 16 = (A.drop 8).drop 6 := by rw [List.drop_drop]; exact hA ▸ slice_to_end A 14
  rw [hend, ← h, List.take_append_drop]

end Unicast

/-! The multicast address mode (R113, R115). -/

section Multicast

variable {M : ByteString} (hM : M.length = 16)
include hM

/-- The multicast mode by the zero patterns of R113. -/
theorem mcastMode_eq :
    mcastMode M =
      if byteAt M 1 = 0x02 ∧ slice M 2 15 = List.replicate 13 0x00#8 then 3#2
      else if slice M 2 13 = List.replicate 11 0x00#8 then 2#2
      else if slice M 2 11 = List.replicate 9 0x00#8 then 1#2 else 0#2 := by
  have h15 := allZero_iff (S := slice M 2 15) (n := 13) (by simp [hM])
  have h13 := allZero_iff (S := slice M 2 13) (n := 11) (by simp [hM])
  have h11 := allZero_iff (S := slice M 2 11) (n := 9) (by simp [hM])
  simp only [mcastMode, Bool.and_eq_true, beq_iff_eq, h15, h13, h11]
  rfl

/-- The inline bytes number what R82 counts for the mode (R77, R115). -/
theorem mcastInline_length (mode : BitVec 2) : (mcastInline M mode).length = mcastLen mode := by
  have hmode : mode = 0 ∨ mode = 1 ∨ mode = 2 ∨ mode = 3 := by revert mode; decide
  rcases hmode with rfl | rfl | rfl | rfl <;> simp [mcastInline, mcastLen, hM]

/-- A multicast address around any slice that starts at byte 2: 0xFF, the scope byte, the slice, and the rest (R77). -/
theorem multicast_split (hmc : isMulticast M = true) {j : Nat} (h2 : 2 ≤ j) (hj : j ≤ 16) :
    M = [0xFF] ++ [byteAt M 1] ++ slice M 2 j ++ slice M j 16 := by
  have hFF : byteAt M 0 = 0xFF := eq_of_beq hmc
  calc M = slice M 0 16 := by rw [← hM, slice_zero_length]
    _ = slice M 0 1 ++ slice M 1 2 ++ slice M 2 j ++ slice M j 16 := by
      rw [slice_append_slice M (by omega) (by omega), slice_append_slice M (by omega) h2,
        slice_append_slice M (by omega) hj]
    _ = _ := by rw [slice_one (by omega), slice_one (i := 1) (by omega), hFF]

end Multicast

/-! The bit fields of the two IPHC bytes and of the NHC byte (R69, R70, R78). -/

/-- The fields of IPHC byte 0, and its dispatch (R66, R69). -/
theorem iphcByte0_fields (tf : BitVec 2) (nh : BitVec 1) (hl : BitVec 2) :
    let b := iphcByte0 tf nh hl
    classOfByte b = .iphc ∧ b.extractLsb' 3 2 = tf ∧ b.extractLsb' 2 1 = nh ∧ b.extractLsb' 0 2 = hl := by
  revert tf nh hl; decide

/-- The fields of IPHC byte 1 (R70). -/
theorem iphcByte1_fields (cid : Bool) (sp dp : AddrPath) :
    let b := iphcByte1 cid sp dp
    b.extractLsb' 7 1 = (if cid then 1#1 else 0#1) ∧ b.extractLsb' 6 1 = sp.ac ∧ b.extractLsb' 4 2 = sp.mode ∧
      b.extractLsb' 3 1 = dp.m ∧ b.extractLsb' 2 1 = dp.ac ∧ b.extractLsb' 0 2 = dp.mode := by
  obtain ⟨-, sac, sam, -, -⟩ := sp
  obtain ⟨m, dac, dam, -, -⟩ := dp
  simp only [iphcByte1]
  revert cid sac sam m dac dam
  decide

/-- The NHC byte lies in 0xF0..0xF3 and its low bits are the port mode (R78). -/
theorem nhcByte_fields (p : BitVec 2) :
    let b : Byte := 0xF0#8 ||| p.setWidth 8
    b.extractLsb' 0 2 = p ∧ 0xF0 ≤ b.toNat ∧ b.toNat ≤ 0xF3 := by
  revert p; decide

/-! The inline fields are as long as R82 reads from their codes. -/

theorem tfEnc_length (TC : BitVec 8) (FL : BitVec 20) : (tfEnc TC FL).2.length = tfLen (tfEnc TC FL).1 := by
  simp only [tfEnc]
  split
  · rfl
  · split
    · rfl
    · split <;> rfl

theorem nhEnc_length (NHv : Byte) : (nhEnc NHv).2.length = 1 - (nhEnc NHv).1.toNat := by
  unfold nhEnc
  split <;> rfl

theorem hlimEnc_length (HL : Byte) : (hlimEnc HL).2.length = if (hlimEnc HL).1 = 0#2 then 1 else 0 := by
  unfold hlimEnc
  split
  · rfl
  · split
    · rfl
    · split <;> rfl

theorem portEnc_length (sp dp : BitVec 16) : (portEnc sp dp).2.length = portLen (portEnc sp dp).1 := by
  unfold portEnc
  split
  · rfl
  · split
    · rfl
    · split <;> rfl

/-- The compressed UDP header: the NHC byte, the ports and the checksum (R78). -/
theorem udpEnc_length (pkt : ByteString) :
    (udpEnc pkt).length = 1 + portLen (portEnc (pktSrcPort pkt) (pktDstPort pkt)).1 + 2 := by
  rw [← portEnc_length]
  simp [udpEnc, beBytes2]
  omega

theorem tfLen_le (tf : BitVec 2) : tfLen tf ≤ 4 := by revert tf; decide

theorem portLen_le (p : BitVec 2) : portLen p ≤ 4 := by revert p; decide

theorem ucastLen_le (mode : BitVec 2) : ucastLen mode ≤ 16 := by revert mode; decide

theorem mcastLen_le (mode : BitVec 2) : mcastLen mode ≤ 16 := by revert mode; decide

theorem ucastLen_le_of_ne_zero {mode : BitVec 2} : mode ≠ 0#2 → ucastLen mode ≤ 8 := by revert mode; decide

/-- The context-extension byte: SCI, then DCI, 0 for an address without a context (R72, R126). -/
theorem ctxExt_eq (sCtx dCtx : Option CtxId) :
    ctxExt sCtx dCtx =
      if sCtx = none ∧ dCtx = none then []
      else [BitVec.ofNat 8 ((sCtx.getD 0).toNat * 16 + (dCtx.getD 0).toNat)] := by
  have join : ∀ i j : CtxId, (i ++ j : Byte) = BitVec.ofNat 8 (i.toNat * 16 + j.toNat) := by decide
  match sCtx, dCtx with
  | none, none => rfl
  | some i, none => exact congrArg ([·]) (join i 0)
  | none, some j => exact congrArg ([·]) (join 0 j)
  | some i, some j => exact congrArg ([·]) (join i j)

/-! What address compression answers (R124, R125). -/

/-- What every path of address compression gives: bytes as many as R82 reads from M and the mode, and a context only for
a unicast address in a mode other than 0 (R83). -/
structure AddrPath.Emitted (p : AddrPath) : Prop where
  bytes_length : p.bytes.length = if p.m = 1#1 then mcastLen p.mode else ucastLen p.mode
  unicast_of_ac : p.ac = 1#1 → p.m = 0#1 ∧ p.mode ≠ 0#2
  ac_of_ctxId : p.ctxId ≠ none → p.ac = 1#1

theorem AddrPath.Emitted.length_le {p : AddrPath} (h : p.Emitted) : p.bytes.length ≤ 16 := by
  rw [h.bytes_length]
  split
  · exact mcastLen_le _
  · exact ucastLen_le _

/-- An address under a context has at most its IID inline (R76). -/
theorem AddrPath.Emitted.length_le_of_ctxId {p : AddrPath} (h : p.Emitted) (hctx : p.ctxId ≠ none) :
    p.bytes.length ≤ 8 := by
  obtain ⟨hm, hmode⟩ := h.unicast_of_ac (h.ac_of_ctxId hctx)
  rw [h.bytes_length, hm, if_neg (by decide)]
  exact ucastLen_le_of_ne_zero hmode

/-- The selector does not produce mode 0 (R112). -/
theorem ucastMode_ne_zero (A : ByteString) (L : LinkAddr) : ucastMode A L ≠ 0#2 := by
  simp only [ucastMode]
  split
  · decide
  · split <;> decide

/-- A unicast path has M = 0 (R124). -/
theorem ucastPath_m (ctx : List CtxSlot) (A : ByteString) (L : LinkAddr) : (ucastPath ctx A L).m = 0#1 := by
  unfold ucastPath
  split
  · rfl
  · split <;> rfl

/-- The unicast path, on each of its three ways (R124). -/
theorem ucastPath_emitted {A : ByteString} (hA : A.length = 16) (ctx : List CtxSlot) (L : LinkAddr) :
    (ucastPath ctx A L).Emitted := by
  have hinline := ucastInline_length hA (ucastMode A L)
  unfold ucastPath
  split
  · exact ⟨hinline, by simp, by simp⟩
  · split
    · exact ⟨hinline, fun _ => ⟨rfl, ucastMode_ne_zero A L⟩, fun _ => rfl⟩
    · exact ⟨by simp [hA, ucastLen], by simp, by simp⟩

/-- The destination path, multicast or unicast (R125). -/
theorem dstPath_emitted {A : ByteString} (hA : A.length = 16) (ctx : List CtxSlot) (L : LinkAddr) :
    (dstPath ctx A L).Emitted := by
  unfold dstPath
  split
  · exact ⟨mcastInline_length hA (mcastMode A), by simp, by simp⟩
  · exact ucastPath_emitted hA ctx L

/-- A context-extension byte stands only beside an address of at most 8 bytes (R72, R76). -/
theorem ctxExt_and_addresses_length_le {sp dp : AddrPath} (hs : sp.Emitted) (hd : dp.Emitted) :
    (ctxExt sp.ctxId dp.ctxId).length + sp.bytes.length + dp.bytes.length ≤ 32 := by
  have hs16 := hs.length_le
  have hd16 := hd.length_le
  rw [ctxExt_eq]
  split
  case isTrue => rw [List.length_nil]; omega
  case isFalse hctx =>
    rw [List.length_singleton]
    by_cases hsc : sp.ctxId = none
    · have := hd.length_le_of_ctxId fun hdc => hctx ⟨hsc, hdc⟩
      omega
    · have := hs.length_le_of_ctxId hsc
      omega

/-! The compressed datagram in parts (R68, R123). -/

/-- The bytes between the two IPHC bytes and the compressed UDP header, in the order of R68. -/
def iphcInline (ctx : List CtxSlot) (pkt : ByteString) (a b : LinkAddr) : ByteString :=
  let sp := srcPath ctx (pktSA pkt) a
  let dp := dstPath ctx (pktDA pkt) b
  ctxExt sp.ctxId dp.ctxId ++ (tfEnc (pktTC pkt) (pktFL pkt)).2 ++ (nhEnc (pktNH pkt)).2 ++ (hlimEnc (pktHL pkt)).2 ++
    sp.bytes ++ dp.bytes

/-- The compressed UDP header, where there is one (R123). -/
def udpPart (pkt : ByteString) : ByteString := if pktNH pkt = nhUdp then udpEnc pkt else []

/-- Byte 0 of the compressed datagram (R69). -/
def iphcFirstByte (pkt : ByteString) : Byte :=
  iphcByte0 (tfEnc (pktTC pkt) (pktFL pkt)).1 (nhEnc (pktNH pkt)).1 (hlimEnc (pktHL pkt)).1

/-- Byte 1 of the compressed datagram (R70). -/
def iphcSecondByte (ctx : List CtxSlot) (pkt : ByteString) (a b : LinkAddr) : Byte :=
  let sp := srcPath ctx (pktSA pkt) a
  let dp := dstPath ctx (pktDA pkt) b
  iphcByte1 (ctxExt sp.ctxId dp.ctxId != []) sp dp

/-- The compressed datagram: two bytes, the inline fields, the UDP header and the payload (R68, R123, R133). -/
theorem compress_eq (ctx : List CtxSlot) (pkt : ByteString) (a b : LinkAddr) :
    compress ctx pkt a b =
      iphcFirstByte pkt :: iphcSecondByte ctx pkt a b ::
        (iphcInline ctx pkt a b ++ (udpPart pkt ++ pkt.drop (replacedLen pkt))) := by
  simp [compress, compressHeader, iphcFirstByte, iphcSecondByte, iphcInline, udpPart, List.append_assoc]

@[simp] theorem byteAt_compress_zero (ctx : List CtxSlot) (pkt : ByteString) (a b : LinkAddr) :
    byteAt (compress ctx pkt a b) 0 = iphcFirstByte pkt := rfl

@[simp] theorem byteAt_compress_one (ctx : List CtxSlot) (pkt : ByteString) (a b : LinkAddr) :
    byteAt (compress ctx pkt a b) 1 = iphcSecondByte ctx pkt a b := rfl

/-- Byte 0's fields are the codes of the inline fields (R69). -/
theorem iphcFirstByte_fields (pkt : ByteString) :
    let b0 := iphcFirstByte pkt
    classOfByte b0 = .iphc ∧ b0.extractLsb' 3 2 = (tfEnc (pktTC pkt) (pktFL pkt)).1 ∧
      b0.extractLsb' 2 1 = (nhEnc (pktNH pkt)).1 ∧ b0.extractLsb' 0 2 = (hlimEnc (pktHL pkt)).1 :=
  iphcByte0_fields ..

/-- NH is 1 for UDP alone (R74, R128). -/
theorem iphcFirstByte_nh (pkt : ByteString) :
    (iphcFirstByte pkt).extractLsb' 2 1 = if pktNH pkt = nhUdp then 1#1 else 0#1 := by
  obtain ⟨-, -, hnh, -⟩ := iphcFirstByte_fields pkt
  rw [hnh, nhEnc]
  split <;> rfl

/-- Byte 1's fields are the two paths' and CID, which is 1 where one of them uses a context (R70, R130). -/
theorem iphcSecondByte_fields (ctx : List CtxSlot) (pkt : ByteString) (a b : LinkAddr) :
    let b1 := iphcSecondByte ctx pkt a b
    let sp := srcPath ctx (pktSA pkt) a
    let dp := dstPath ctx (pktDA pkt) b
    b1.extractLsb' 7 1 = (if sp.ctxId = none ∧ dp.ctxId = none then 0#1 else 1#1) ∧ b1.extractLsb' 6 1 = sp.ac ∧
      b1.extractLsb' 4 2 = sp.mode ∧ b1.extractLsb' 3 1 = dp.m ∧ b1.extractLsb' 2 1 = dp.ac ∧
      b1.extractLsb' 0 2 = dp.mode := by
  obtain ⟨hcid, hrest⟩ := iphcByte1_fields
    (ctxExt (srcPath ctx (pktSA pkt) a).ctxId (dstPath ctx (pktDA pkt) b).ctxId != [])
    (srcPath ctx (pktSA pkt) a) (dstPath ctx (pktDA pkt) b)
  refine ⟨hcid.trans ?_, hrest⟩
  rw [ctxExt_eq]
  split <;> simp

/-- The context-extension byte stands where CID is 1, and holds SCI and DCI (R72, R126, R130). -/
theorem ctxExt_of_cid (ctx : List CtxSlot) (pkt : ByteString) (a b : LinkAddr) :
    let sCtx := (srcPath ctx (pktSA pkt) a).ctxId
    let dCtx := (dstPath ctx (pktDA pkt) b).ctxId
    ctxExt sCtx dCtx =
      if (iphcSecondByte ctx pkt a b).extractLsb' 7 1 = 1#1 then
        [BitVec.ofNat 8 ((sCtx.getD 0).toNat * 16 + (dCtx.getD 0).toNat)]
      else [] := by
  obtain ⟨hcid, -⟩ := iphcSecondByte_fields ctx pkt a b
  simp only [ctxExt_eq, hcid]
  split <;> rfl

/-! A packet that meets R121. -/

theorem length_of_packetOk {pkt : ByteString} (h : packetOk pkt = true) :
    40 ≤ pkt.length ∧ (pktNH pkt = nhUdp → 48 ≤ pkt.length) := by
  obtain ⟨h40, -, -, hudp⟩ := of_decide_eq_true h
  exact ⟨h40, fun hnh => (hudp hnh).1⟩

theorem srcPath_emitted {pkt : ByteString} (h : 40 ≤ pkt.length) (ctx : List CtxSlot) (a : LinkAddr) :
    (srcPath ctx (pktSA pkt) a).Emitted :=
  ucastPath_emitted (by simp [pktSA]; omega) ctx a

theorem dstPath_pktDA_emitted {pkt : ByteString} (h : 40 ≤ pkt.length) (ctx : List CtxSlot) (b : LinkAddr) :
    (dstPath ctx (pktDA pkt) b).Emitted :=
  dstPath_emitted (by simp [pktDA]; omega) ctx b

section Header

variable {pkt : ByteString} (h40 : 40 ≤ pkt.length) (ctx : List CtxSlot) (a b : LinkAddr)
include h40

/-- The base length read from bytes 0 and 1 counts the two bytes and the inline fields (R82). -/
theorem iphcBaseLength_compress : iphcBaseLength (compress ctx pkt a b) = 2 + (iphcInline ctx pkt a b).length := by
  obtain ⟨-, htf, hnh, hhl⟩ := iphcFirstByte_fields pkt
  obtain ⟨hcid, -, hsam, hm, -, hdam⟩ := iphcSecondByte_fields ctx pkt a b
  have hsrc := (srcPath_emitted h40 ctx a).bytes_length
  have hdst := (dstPath_pktDA_emitted h40 ctx b).bytes_length
  rw [if_neg (by simp [srcPath, ucastPath_m])] at hsrc
  have hext : (ctxExt (srcPath ctx (pktSA pkt) a).ctxId (dstPath ctx (pktDA pkt) b).ctxId).length =
      ((iphcSecondByte ctx pkt a b).extractLsb' 7 1).toNat := by
    rw [hcid, ctxExt_eq]
    split <;> rfl
  simp only [iphcBaseLength, byteAt_compress_zero, byteAt_compress_one, iphcInline, List.length_append, hext, hsrc, hdst,
    tfEnc_length, nhEnc_length, hlimEnc_length, htf, hnh, hhl, hsam, hm, hdam]
  omega

/-- What follows the base length is the UDP header and the payload (R68). -/
theorem compress_drop_base :
    (compress ctx pkt a b).drop (iphcBaseLength (compress ctx pkt a b)) = udpPart pkt ++ pkt.drop (replacedLen pkt) := by
  rw [iphcBaseLength_compress h40, compress_eq, Nat.add_comm]
  exact List.drop_left

/-- For UDP the byte at the base length is the NHC byte with the port mode (R78, R131). -/
theorem nhcByte_compress (hudp : pktNH pkt = nhUdp) :
    byteAt (compress ctx pkt a b) (iphcBaseLength (compress ctx pkt a b)) =
      0xF0#8 ||| (portEnc (pktSrcPort pkt) (pktDstPort pkt)).1.setWidth 8 := by
  have hdrop := compress_drop_base h40 ctx a b
  rw [udpPart, if_pos hudp] at hdrop
  simpa [byteAt, List.getElem?_drop, udpEnc] using congrArg (byteAt · 0) hdrop

/-- The header ends after the UDP part: NH = 1 exactly where there is one, and the port mode tells its length (R82). -/
theorem iphcHeaderLength_compress :
    iphcHeaderLength (compress ctx pkt a b) = 2 + (iphcInline ctx pkt a b).length + (udpPart pkt).length := by
  simp only [iphcHeaderLength, byteAt_compress_zero, iphcFirstByte_nh, udpPart]
  by_cases hudp : pktNH pkt = nhUdp
  · obtain ⟨hport, -⟩ := nhcByte_fields (portEnc (pktSrcPort pkt) (pktDstPort pkt)).1
    rw [nhcByte_compress h40 ctx a b hudp, hport, iphcBaseLength_compress h40, if_pos (if_pos hudp), if_pos hudp,
      udpEnc_length]
  · rw [iphcBaseLength_compress h40, if_neg (by simp [hudp]), if_neg hudp]
    rfl

/-- The inline fields take at most 38 bytes, one fewer where the next header is left out (R84). -/
theorem iphcInline_length_le :
    (iphcInline ctx pkt a b).length ≤ if pktNH pkt = nhUdp then 37 else 38 := by
  have haddr := ctxExt_and_addresses_length_le (srcPath_emitted h40 ctx a) (dstPath_pktDA_emitted h40 ctx b)
  have htf := tfLen_le (tfEnc (pktTC pkt) (pktFL pkt)).1
  have hnh : (nhEnc (pktNH pkt)).2.length = if pktNH pkt = nhUdp then 0 else 1 := by
    unfold nhEnc
    split <;> rfl
  have hhl : (hlimEnc (pktHL pkt)).2.length ≤ 1 := by
    rw [hlimEnc_length]
    split <;> decide
  simp only [iphcInline, List.length_append, tfEnc_length, hnh]
  split <;> omega

end Header

/-- The header bytes ENCODE replaces, as numbers (R134). -/
theorem replacedLen_eq (pkt : ByteString) : replacedLen pkt = if pktNH pkt = nhUdp then 48 else 40 := by
  unfold replacedLen
  split <;> rfl

/-- What follows the inline fields (R68, R133). -/
theorem udpPart_append_payload (pkt : ByteString) :
    udpPart pkt ++ pkt.drop (replacedLen pkt) =
      if pktNH pkt = nhUdp then udpEnc pkt ++ pkt.drop 48 else pkt.drop 40 := by
  rw [udpPart, replacedLen_eq]
  split <;> rfl

/-- The UDP part takes at most 7 bytes (R84). -/
theorem udpPart_length_le (pkt : ByteString) : (udpPart pkt).length ≤ if pktNH pkt = nhUdp then 7 else 0 := by
  unfold udpPart
  split
  · have := portLen_le (portEnc (pktSrcPort pkt) (pktDstPort pkt)).1
    rw [udpEnc_length]
    omega
  · exact le_rfl

section Packet

variable {pkt : ByteString} (hpkt : packetOk pkt = true) (ctx : List CtxSlot) (a b : LinkAddr)
include hpkt

/-- The payload begins at the header length (R82, R133). -/
theorem compress_drop_header :
    (compress ctx pkt a b).drop (iphcHeaderLength (compress ctx pkt a b)) = pkt.drop (replacedLen pkt) := by
  obtain ⟨h40, -⟩ := length_of_packetOk hpkt
  rw [iphcHeaderLength_compress h40, ← iphcBaseLength_compress h40, ← List.drop_drop, compress_drop_base h40]
  exact List.drop_left

/-- The header is at most 40 bytes, or 46 with UDP (R84). -/
theorem iphcHeaderLength_compress_le :
    iphcHeaderLength (compress ctx pkt a b) ≤ if pktNH pkt = nhUdp then 46 else 40 := by
  obtain ⟨h40, -⟩ := length_of_packetOk hpkt
  have hinline := iphcInline_length_le h40 ctx a b
  have hpart := udpPart_length_le pkt
  rw [iphcHeaderLength_compress h40]
  by_cases hudp : pktNH pkt = nhUdp
  · rw [if_pos hudp] at hinline hpart ⊢
    omega
  · rw [if_neg hudp] at hinline hpart ⊢
    omega

/-- The datagram is the header and the payload (R123). -/
theorem compress_length :
    (compress ctx pkt a b).length = iphcHeaderLength (compress ctx pkt a b) + (pkt.length - replacedLen pkt) := by
  obtain ⟨h40, -⟩ := length_of_packetOk hpkt
  rw [iphcHeaderLength_compress h40, compress_eq]
  simp only [List.length_cons, List.length_append, List.length_drop]
  omega

/-- The packet is long enough for the header bytes ENCODE replaces (R121). -/
theorem replacedLen_le : replacedLen pkt ≤ pkt.length := by
  obtain ⟨h40, h48⟩ := length_of_packetOk hpkt
  rw [replacedLen_eq]
  split
  case isTrue hudp => exact h48 hudp
  case isFalse => exact h40

/-- Compression never makes a packet longer (R135). -/
theorem compress_length_le : (compress ctx pkt a b).length ≤ pkt.length := by
  have hheader := iphcHeaderLength_compress_le hpkt ctx a b
  have hreplaced := replacedLen_le hpkt
  rw [compress_length hpkt]
  rw [replacedLen_eq] at hreplaced ⊢
  by_cases hudp : pktNH pkt = nhUdp
  · rw [if_pos hudp] at hheader hreplaced ⊢
    omega
  · rw [if_neg hudp] at hheader hreplaced ⊢
    omega

end Packet

/-! SEND (R151) and the reserved codes (R94). -/

/-- SEND of a packet the buffer holds is FRAGMENT of its compressed datagram (R151). -/
theorem exec_send_eq_fragment {s : State} {pkt : ByteString} (hpkt : packetOk pkt = true)
    (hcap : pkt.length ≤ s.cfg.outCap) (a b : LinkAddr) :
    exec (.send pkt a b) s = exec (.fragment (compress s.ctx pkt a b) b) s := by
  change s.accept (packetOk pkt) (sendPacket pkt a b s) = s.accept (datagramOk (compress s.ctx pkt a b)) _
  have hne : datagramOk (compress s.ctx pkt a b) = true := by simp [datagramOk, compress_eq]
  rw [hpkt, hne, sendPacket_eq, if_neg (by omega)]

/-- A datagram within the budget is one frame, and OK with one sent where the link accepts it (R142, R148). -/
theorem fragmentDatagram_one_accepted {s : State} {cdg : ByteString} (hsize : cdg.length ≤ 2047)
    (hbudget : cdg.length ≤ s.cfg.budget) {vs : List Verdict} (hv : s.verdicts = .ok :: vs) (d : LinkAddr) :
    fragmentDatagram cdg d s =
      { s with verdicts := vs, out := s.out ++ [.link d cdg .ok, .completion ⟨.ok, none, .sent 1⟩] } := by
  have hsent := emitFrames_all_ok d [cdg] s vs hv
  rw [fragmentDatagram, if_neg (by omega), if_pos hbudget, transmitFrames, hsent]
  simp [State.complete, State.present]

/-- Every reserved code completes with `IllegalCommand` (R94). -/
theorem exec_reserved {i : Instr}
    (hi : i ∈ [Instr.reservedCmd0, .reservedCmd9, .reservedCmdA, .reservedCmdB, .reservedCmdC, .reservedCmdD,
      .reservedCmdE, .reservedCmdF]) (s : State) : exec i s = s.accept true (illegalCommand s) := by
  simp only [List.mem_cons, List.not_mem_nil, or_false] at hi
  rcases hi with rfl | rfl | rfl | rfl | rfl | rfl | rfl | rfl <;> rfl

end Sys2Proof.Machine

namespace Sys2Proof.Proofs.EncodingFamily

open Sys2Proof.Machine

/-- Settles O1, one form of word at a time: the addresses read back, a received frame is of its row's class, and a fragment
frame parses to its fields. -/
theorem decodeOfEncode : Obligations.DecodeOfEncode := by
  intro c i hwf
  cases i with
  | setctx | rmctx | lookupctx | tick | flush | reservedCmd0 | reservedCmd9 | reservedCmdA | reservedCmdB | reservedCmdC
  | reservedCmdD | reservedCmdE | reservedCmdF => rfl
  | encode pkt a b => exact withAddrs_toBytes a b _
  | fragment cdg d => exact withAddr_toBytes d _
  | recv f a b => exact withAddrs_toBytes a b _
  | send pkt a b => exact withAddrs_toBytes a b _
  | rxUncomp f a b => exact decode_receive .uncomp (eq_of_beq hwf) a b
  | rxIphc f a b => exact decode_receive .iphc (eq_of_beq hwf) a b
  | rxFrag1 f a b => exact decode_receive .frag1 (eq_of_beq hwf) a b
  | rxFragN f a b => exact decode_receive .fragN (eq_of_beq hwf) a b
  | rxUnknown f a b => exact decode_receive .unknown (eq_of_beq hwf) a b
  | txFrag1 size tag data d => exact decodeTransmit_frag1Frame size tag data d
  | txFragN size tag off8 data d => exact decodeTransmit_fragNFrame size tag off8 data d

/-- Settles O4: the size bytes and the tag bytes, each as numbers. -/
theorem fragmentHeaderBytes : Obligations.FragmentHeaderBytes := by
  intro size tag off8 data
  constructor
  · rw [frag1Frame, sizeBytes_eq (.inl rfl), beBytes2_eq]
    rfl
  · rw [fragNFrame, sizeBytes_eq (.inr rfl), beBytes2_eq]
    rfl

/-- Settles O5: the fields read back, and the header read is the header of the frame. -/
theorem fragmentHeadersReadBack : Obligations.FragmentHeadersReadBack := by
  refine ⟨fun size tag off8 data => ?_, fun F size tag data => eq_frag1Frame_of_parse,
    fun F size tag off8 data => eq_fragNFrame_of_parse⟩
  exact ⟨frameClass_frag1Frame size tag data, parseFrag1_frag1Frame size tag data,
    frameClass_fragNFrame size tag off8 data, parseFragN_fragNFrame size tag off8 data⟩

/-- Settles O16, one mode at a time: mode 3 leaves out the derived IID, mode 2 the short pattern, mode 1 nothing of the
second half. -/
theorem unicastAddressRebuilds : Obligations.UnicastAddressRebuilds := by
  intro A L hA
  have hmode := ucastMode_eq hA L
  refine ⟨hmode, ?_⟩
  have hlen := ucastInline_length hA (ucastMode A L)
  have hsplit : A = A.take 8 ++ A.drop 8 := (List.take_append_drop 8 A).symm
  split at hmode
  case isTrue hiid =>
    rw [hmode] at hlen ⊢
    exact ⟨hlen, hiid ▸ hsplit⟩
  case isFalse =>
    split at hmode
    case isTrue hshort =>
      rw [hmode] at hlen ⊢
      exact ⟨hlen, iid_of_short hA hshort ▸ hsplit⟩
    case isFalse =>
      rw [hmode] at hlen ⊢
      have hinline : ucastInline A 1#2 = A.drop 8 := slice_iid hA
      exact ⟨hlen, hinline ▸ hsplit⟩

/-- Settles O18, one mode at a time: the zero pattern that gave the mode is the slice the mode leaves out. -/
theorem multicastAddressRebuilds : Obligations.MulticastAddressRebuilds := by
  intro M hM hmc
  have hmode := mcastMode_eq hM
  refine ⟨hmode, ?_⟩
  have hlen := mcastInline_length hM (mcastMode M)
  have hsplit {j : Nat} := multicast_split hM hmc (j := j)
  split at hmode
  case isTrue hzero =>
    obtain ⟨hscope, hzero⟩ := hzero
    have h15 := hsplit (j := 15) (by omega) (by omega)
    rw [hscope, hzero, slice_one (i := 15) (by omega)] at h15
    rw [hmode] at hlen ⊢
    exact ⟨hlen, h15⟩
  case isFalse =>
    split at hmode
    case isTrue hzero =>
      have h13 := hsplit (j := 13) (by omega) (by omega)
      rw [hzero] at h13
      rw [hmode] at hlen ⊢
      exact ⟨hlen, h13⟩
    case isFalse =>
      split at hmode
      case isTrue hzero =>
        have h11 := hsplit (j := 11) (by omega) (by omega)
        rw [hzero] at h11
        rw [hmode] at hlen ⊢
        exact ⟨hlen, h11⟩
      case isFalse =>
        rw [hmode] at hlen ⊢
        exact ⟨hlen, by simpa [mcastInline, hM] using (slice_zero_length M).symm⟩

/-- Settles O25: the fields are those of the two bytes built, and what follows them is in the order it was appended. -/
theorem iphcByteFields : Obligations.IphcByteFields := by
  intro ctx pkt a b
  obtain ⟨hclass, htf, -, hhl⟩ := iphcFirstByte_fields pkt
  obtain ⟨hcid, hsac, hsam, hm, hdac, hdam⟩ := iphcSecondByte_fields ctx pkt a b
  refine ⟨hclass, htf, iphcFirstByte_nh pkt, hhl, hsac, hsam, hm, hdac, hdam, hcid, ?_⟩
  rw [compress_eq, udpPart_append_payload, iphcInline, ctxExt_of_cid]
  rfl

/-- Settles O26: the length read is that of the parts before the payload. -/
theorem headerLengthReadBack : Obligations.HeaderLengthReadBack := by
  intro ctx pkt a b hpkt
  have hdrop := compress_drop_header hpkt ctx a b
  have hlen := compress_length hpkt ctx a b
  rw [replacedLen_eq] at hdrop hlen
  exact ⟨hdrop, hlen, iphcHeaderLength_compress_le hpkt ctx a b, compress_length_le hpkt ctx a b⟩

/-- Settles O27: both paths are what address compression emits, and for UDP the NHC byte holds a port mode. -/
theorem encoderNeverEmits : Obligations.EncoderNeverEmits := by
  intro ctx pkt a b hpkt
  obtain ⟨h40, -⟩ := length_of_packetOk hpkt
  have hsrc := srcPath_emitted h40 ctx a
  have hdst := dstPath_pktDA_emitted h40 ctx b
  obtain ⟨-, hsac, hsam, hm, hdac, hdam⟩ := iphcSecondByte_fields ctx pkt a b
  simp only [byteAt_compress_zero, byteAt_compress_one, hsac, hsam, hm, hdac, hdam, iphcFirstByte_nh]
  refine ⟨fun ⟨hac, hmode⟩ => (hsrc.unicast_of_ac hac).2 hmode, fun ⟨hac, hmode⟩ => (hdst.unicast_of_ac hac).2 hmode,
    fun ⟨hmulti, hac⟩ => ?_, fun hnh => ?_⟩
  · rw [(hdst.unicast_of_ac hac).1] at hmulti
    exact absurd hmulti (by decide)
  · have hudp : pktNH pkt = nhUdp := by
      by_contra hne
      simp [hne] at hnh
    rw [nhcByte_compress h40 ctx a b hudp]
    exact ⟨hudp, (nhcByte_fields _).2⟩

/-- Settles O33: SEND makes ENCODE's tests, and past them it is FRAGMENT of ENCODE's datagram, which is no longer than the
packet. -/
theorem sendIsEncodeThenFragment : Obligations.SendIsEncodeThenFragment := by
  intro s pkt a b hcfg
  refine ⟨fun hbad => ?_, fun hpkt hcap => ?_, fun hpkt hcap => ⟨exec_send_eq_fragment hpkt hcap a b, ?_⟩⟩
  · exact State.accept_of_not _ (by rw [hbad, Bool.and_false])
  · refine (State.accept_of_ok _ hcfg hpkt).trans ?_
    rw [sendPacket_eq, if_pos hcap]
    rfl
  · intro vs hsize hbudget hv
    have hD := compress_length_le hpkt s.ctx a b
    refine (State.accept_of_ok _ hcfg hpkt).trans ?_
    rw [sendPacket_eq, if_neg (by omega), fragmentDatagram_one_accepted (by omega) (by omega) hv]

/-- Settles O2: each word, decoded. -/
theorem specWordsDecode : Obligations.SpecWordsDecode :=
  ⟨rfl, rfl, rfl, rfl, rfl, rfl, rfl, rfl⟩

/-- Settles O3: the class of a frame with a first byte is that byte's, by its value. -/
theorem dispatchClassByValue : Obligations.DispatchClassByValue :=
  ⟨rfl, fun d _ => classOfByte_eq_ranges d⟩

/-- Settles O45: all eight codes have one meaning. -/
theorem reservedCodesIllegal : Obligations.ReservedCodesIllegal := by
  intro s i hcfg hi
  rw [exec_reserved hi, State.accept_of_ok _ hcfg rfl]
  rfl

end Sys2Proof.Proofs.EncodingFamily

/-! ### Context table (40_context_table.md): O11, O12, O13, O14, O15, O54. -/

namespace Sys2Proof.Machine

/-! The search after one slot is written. -/

/-- A slot that does not match, overwritten with one that does not, changes no search. -/
theorem findSlot_set_of_not {α : Type} {p : α → Bool} {l : List α} {k : Nat} {a b : α} (hk : l[k]? = some a)
    (ha : p a = false) (hb : p b = false) : findSlot p (l.set k b) = findSlot p l := by
  induction l generalizing k with
  | nil => rfl
  | cons x l ih =>
    cases k with
    | zero =>
      obtain rfl : x = a := by simpa using hk
      simp [findSlot, ha, hb]
    | succ k => simp [findSlot, ih (k := k) (by simpa using hk)]

/-- A matching slot written below every other match is the one found. -/
theorem findSlot_set_of_lowest {α : Type} {p : α → Bool} {l : List α} {k : Nat} {a b : α} (hk : l[k]? = some a)
    (hb : p b = true) (hl : ∀ j d, j < k → l[j]? = some d → p d = false) : findSlot p (l.set k b) = some (k, b) := by
  refine findSlot_of_lowest (by simp [List.getElem?_set_self', hk]) hb fun j d hj hd => hl j d hj ?_
  rwa [List.getElem?_set_ne (by omega)] at hd

/-! The slot that holds an id (R100 to R102). -/

theorem CtxSlot.holds_iff {id : CtxId} {c : CtxSlot} : c.holds id = true ↔ c.inUse = true ∧ c.id = id := by
  simp [CtxSlot.holds]

theorem CtxSlot.holds_eq_false_iff {id : CtxId} {c : CtxSlot} :
    c.holds id = false ↔ ¬(c.inUse = true ∧ c.id = id) := by
  rw [← CtxSlot.holds_iff, Bool.not_eq_true]

/-- The lowest in-use slot with the id is the one found (R100, R102). -/
theorem findContext_of_lowest {l : List CtxSlot} {id : CtxId} {k : Nat} {c : CtxSlot} (hk : l[k]? = some c)
    (huse : c.inUse = true) (hid : c.id = id)
    (hl : ∀ (j : Nat) (d : CtxSlot), j < k → l[j]? = some d → ¬(d.inUse = true ∧ d.id = id)) :
    findSlot (CtxSlot.holds id) l = some (k, c) :=
  findSlot_of_lowest hk (CtxSlot.holds_iff.mpr ⟨huse, hid⟩) fun j d hj hd =>
    CtxSlot.holds_eq_false_iff.mpr (hl j d hj hd)

/-- An id that no in-use slot has is not found (R100, R102). -/
theorem findContext_eq_none_of {l : List CtxSlot} {id : CtxId} (h : ∀ d ∈ l, ¬(d.inUse = true ∧ d.id = id)) :
    findSlot (CtxSlot.holds id) l = none :=
  findSlot_eq_none.mpr fun d hd => CtxSlot.holds_eq_false_iff.mpr (h d hd)

/-! The three commands under an admitted configuration. -/

section Commands

variable {s : State} (hcfg : s.cfg.admitted = true) (id : CtxId) (pfx : Prefix64)
include hcfg

theorem exec_setctx : exec (.setctx id pfx) s = .next (setContext id pfx s) := State.accept_of_ok _ hcfg rfl

theorem exec_rmctx : exec (.rmctx id) s = .next (removeContext id s) := State.accept_of_ok _ hcfg rfl

theorem exec_lookupctx : exec (.lookupctx id) s = .next (lookupContext id s) := State.accept_of_ok _ hcfg rfl

end Commands

/-! SETCTX, by what its two searches find (R100). -/

section Setctx

variable {s : State} {id : CtxId} (pfx : Prefix64) {k : Nat} {c : CtxSlot}

theorem setContext_of_held (hheld : findSlot (CtxSlot.holds id) s.ctx = some (k, c)) :
    setContext id pfx s = (s.writeCtx k { c with pfx := pfx }).complete .ok none .none := by
  simp only [setContext, hheld]

theorem setContext_of_free (hnone : findSlot (CtxSlot.holds id) s.ctx = none)
    (hfree : findSlot (fun c => !c.inUse) s.ctx = some (k, c)) :
    setContext id pfx s = (s.writeCtx k ⟨true, id, pfx⟩).complete .ok none .none := by
  simp only [setContext, hnone, hfree]

theorem setContext_of_full (hnone : findSlot (CtxSlot.holds id) s.ctx = none)
    (hfull : findSlot (fun c => !c.inUse) s.ctx = none) :
    setContext id pfx s = s.complete .outOfContexts none .none := by
  simp only [setContext, hnone, hfull]

end Setctx

/-- SETCTX either has no slot to write, or writes `id` and `pfx` to a slot that was free or held the id, below every
other slot that holds it (R100). -/
theorem setContext_cases (id : CtxId) (pfx : Prefix64) (s : State) :
    setContext id pfx s = s.complete .outOfContexts none .none ∨
      ∃ k old, s.ctx[k]? = some old ∧ (old.inUse = true → old.id = id) ∧
        (∀ j d, j < k → s.ctx[j]? = some d → d.holds id = false) ∧
        setContext id pfx s = (s.writeCtx k ⟨true, id, pfx⟩).complete .ok none .none := by
  rcases hheld : findSlot (CtxSlot.holds id) s.ctx with _ | ⟨k, c⟩
  · have habsent := findSlot_eq_none.mp hheld
    rcases hfree : findSlot (fun c => !c.inUse) s.ctx with _ | ⟨k, c⟩
    · exact .inl (setContext_of_full pfx hheld hfree)
    · obtain ⟨hk, huse, -⟩ := findSlot_eq_some hfree
      refine .inr ⟨k, c, hk, fun h => by simp [h] at huse, fun j d _ hd => ?_, setContext_of_free pfx hheld hfree⟩
      exact habsent d (List.mem_of_getElem? hd)
  · obtain ⟨hk, hholds, hlow⟩ := findSlot_eq_some hheld
    obtain ⟨huse, hid⟩ := CtxSlot.holds_iff.mp hholds
    refine .inr ⟨k, c, hk, fun _ => hid, hlow, ?_⟩
    rw [setContext_of_held pfx hheld, huse, hid]

/-! What LOOKUPCTX reads (R102). -/

/-- What a table holds for an id, if anything: the `pfx` of the lowest in-use slot with the id. -/
def heldPrefix (id : CtxId) (l : List CtxSlot) : Option Prefix64 :=
  (findSlot (CtxSlot.holds id) l).map fun r => r.2.pfx

/-- What LOOKUPCTX presents for a `pfx` held or not: the found bit, and 0 on a miss (R102). -/
def lookupOutput (p : Option Prefix64) : Output := .completion ⟨.ok, none, .context p.isSome (p.getD 0)⟩

/-- LOOKUPCTX presents what the table holds for the id, and nothing else changes (R102). -/
theorem lookupContext_eq (id : CtxId) (s : State) :
    lookupContext id s = s.present (lookupOutput (heldPrefix id s.ctx)) := by
  rcases h : findSlot (CtxSlot.holds id) s.ctx with _ | ⟨k, c⟩ <;>
    simp [lookupContext, heldPrefix, lookupOutput, State.complete, h]

/-- LOOKUPCTX answers as in another state when the two tables hold the same for the id. -/
theorem exec_lookupctx_of_heldPrefix_eq {s t : State} (hs : s.cfg.admitted = true) (ht : t.cfg.admitted = true)
    {id : CtxId} (h : heldPrefix id t.ctx = heldPrefix id s.ctx) {r : Output}
    (hexec : exec (.lookupctx id) s = .next { s with out := s.out ++ [r] }) :
    exec (.lookupctx id) t = .next { t with out := t.out ++ [r] } := by
  rw [exec_lookupctx hs, lookupContext_eq] at hexec
  have hr : lookupOutput (heldPrefix id s.ctx) = r := by simpa [State.present] using hexec
  rw [exec_lookupctx ht, lookupContext_eq, h, hr]
  rfl

/-- A slot that does not hold the id before or after it is written changes nothing of what the table holds for it. -/
theorem heldPrefix_set_of_not {l : List CtxSlot} {id : CtxId} {k : Nat} {a b : CtxSlot} (hk : l[k]? = some a)
    (ha : a.holds id = false) (hb : b.holds id = false) : heldPrefix id (l.set k b) = heldPrefix id l := by
  rw [heldPrefix, findSlot_set_of_not hk ha hb, heldPrefix]

/-- A change of the slots that leaves who holds the id, and every `pfx`, leaves what the table holds for the id. -/
theorem heldPrefix_map {id : CtxId} {f : CtxSlot → CtxSlot} (hholds : ∀ c, (f c).holds id = c.holds id)
    (hpfx : ∀ c, (f c).pfx = c.pfx) (l : List CtxSlot) : heldPrefix id (l.map f) = heldPrefix id l := by
  induction l with
  | nil => rfl
  | cons c l ih =>
    cases hc : c.holds id with
    | true => simp [heldPrefix, findSlot, hholds, hpfx, hc]
    | false => simpa [heldPrefix, findSlot, hholds, hc, Function.comp_def] using ih

/-- After a SETCTX that finds a slot the table holds `pfx` for the id, and for every other id what it held (R100). -/
theorem heldPrefix_setContext {id : CtxId} {pfx : Prefix64} {s : State}
    (hok : (setContext id pfx s).out = s.out ++ [.completion ⟨.ok, none, .none⟩]) :
    heldPrefix id (setContext id pfx s).ctx = some pfx ∧
      ∀ id', id' ≠ id → heldPrefix id' (setContext id pfx s).ctx = heldPrefix id' s.ctx := by
  rcases setContext_cases id pfx s with hfull | ⟨k, old, hk, hold, hlow, hset⟩
  · simp [hfull] at hok
  · rw [hset, State.complete_ctx, State.writeCtx_ctx]
    constructor
    · have hnew : CtxSlot.holds id ⟨true, id, pfx⟩ = true := CtxSlot.holds_iff.mpr ⟨rfl, rfl⟩
      rw [heldPrefix, findSlot_set_of_lowest hk hnew hlow]
      rfl
    · intro id' hne
      refine heldPrefix_set_of_not hk (CtxSlot.holds_eq_false_iff.mpr ?_) (CtxSlot.holds_eq_false_iff.mpr ?_)
      · rintro ⟨huse, rfl⟩
        exact hne (hold huse)
      · rintro ⟨-, rfl⟩
        exact hne rfl

/-- After RMCTX the table holds nothing for the id, and for every other id what it held (R101). -/
theorem heldPrefix_removeContext (id : CtxId) (s : State) :
    heldPrefix id (removeContext id s).ctx = none ∧
      ∀ id', id' ≠ id → heldPrefix id' (removeContext id s).ctx = heldPrefix id' s.ctx := by
  rw [removeContext, State.complete_ctx, State.setCtx_ctx]
  constructor
  · rw [heldPrefix, Option.map_eq_none_iff, findSlot_eq_none]
    intro d hd
    obtain ⟨c, -, rfl⟩ := List.mem_map.mp hd
    split
    next => rfl
    next hc => exact Bool.eq_false_iff.mpr hc
  · intro id' hne
    refine heldPrefix_map (fun c => ?_) (fun c => ?_) s.ctx
    · split
      next hc =>
        obtain ⟨-, hid⟩ := CtxSlot.holds_iff.mp hc
        simp [CtxSlot.holds, hid, hne.symm]
      next => rfl
    · split <;> rfl

/-! Prefixes as numbers and as bytes (R24, R103). -/

/-- The bytes of the number that eight bytes make are those eight bytes (R9). -/
theorem prefixBytes_ofNat_beNat {S : ByteString} (hS : S.length = 8) :
    prefixBytes (BitVec.ofNat 64 (beNat S)) = S := by
  match S, hS with
  | [b0, b1, b2, b3, b4, b5, b6, b7], _ =>
    simp only [prefixBytes, beNat, List.foldl_cons, List.foldl_nil, List.cons.injEq, and_true]
    have h0 := b0.isLt; have h1 := b1.isLt; have h2 := b2.isLt; have h3 := b3.isLt
    have h4 := b4.isLt; have h5 := b5.isLt; have h6 := b6.isLt; have h7 := b7.isLt
    refine ⟨?_, ?_, ?_, ?_, ?_, ?_, ?_, ?_⟩ <;> apply BitVec.eq_of_toNat_eq <;>
      simp only [BitVec.extractLsb'_toNat, BitVec.toNat_ofNat, Nat.shiftRight_eq_div_pow] <;> omega

/-- The number that the bytes of `p` make is `p` (R9). -/
theorem ofNat_beNat_prefixBytes (p : Prefix64) : BitVec.ofNat 64 (beNat (prefixBytes p)) = p := by
  apply BitVec.eq_of_toNat_eq
  have hp := p.isLt
  simp only [prefixBytes, beNat, List.foldl_cons, List.foldl_nil, BitVec.extractLsb'_toNat, BitVec.toNat_ofNat,
    Nat.shiftRight_eq_div_pow]
  omega

/-- `p` is the upper half of an address exactly when its bytes are the address's first eight (R24). -/
theorem eq_prefixOf_iff {A : ByteString} (hA : A.length = 16) (p : Prefix64) :
    p = prefixOf A ↔ prefixBytes p = A.take 8 := by
  have hslice : slice A 0 8 = A.take 8 := rfl
  rw [prefixOf, hslice]
  constructor
  · rintro rfl
    exact prefixBytes_ofNat_beNat (by simp [hA])
  · intro h
    rw [← h, ofNat_beNat_prefixBytes]

end Sys2Proof.Machine

namespace Sys2Proof.Proofs.ContextFamily

open Sys2Proof.Machine

/-- Settles O11, by what the two searches find. -/
theorem setctxResult : Obligations.SetctxResult := by
  intro s id pfx hcfg
  rw [exec_setctx hcfg]
  refine ⟨fun k c hk huse hid hlow => ?_, fun habsent => ⟨fun k c hk huse hlow => ?_, fun hfull => ?_⟩⟩
  · rw [setContext_of_held pfx (findContext_of_lowest hk huse hid hlow)]
    rfl
  · have hfree : findSlot (fun c => !c.inUse) s.ctx = some (k, c) :=
      findSlot_of_lowest hk (by simp [huse]) fun j d hj hd => by simp [hlow j d hj hd]
    rw [setContext_of_free pfx (findContext_eq_none_of habsent) hfree]
    rfl
  · have hnone : findSlot (fun c => !c.inUse) s.ctx = none := findSlot_eq_none.mpr fun d hd => by simp [hfull d hd]
    rw [setContext_of_full pfx (findContext_eq_none_of habsent) hnone]
    rfl

/-- Settles O13: LOOKUPCTX presents what the table holds for the id (`lookupContext_eq`). -/
theorem lookupctxResult : Obligations.LookupctxResult := by
  intro s id hcfg
  rw [exec_lookupctx hcfg, lookupContext_eq, heldPrefix]
  refine ⟨fun k c hk huse hid hlow => ?_, fun habsent => ?_⟩
  · rw [findContext_of_lowest hk huse hid hlow]
    rfl
  · rw [findContext_eq_none_of habsent]
    rfl

/-- Settles O14: LOOKUPCTX presents what the table holds after SETCTX (`heldPrefix_setContext`) and after RMCTX
(`heldPrefix_removeContext`). -/
theorem contextReadBack : Obligations.ContextReadBack := by
  intro s t id hcfg
  refine ⟨fun pfx hexec hok => ?_, fun hexec => ?_⟩
  · have ht : t.cfg.admitted = true := exec_cfg hexec ▸ hcfg
    rw [exec_setctx hcfg] at hexec
    obtain rfl : setContext id pfx s = t := Host.Outcome.next.inj hexec
    obtain ⟨hsame, hother⟩ := heldPrefix_setContext hok
    refine ⟨?_, fun id' r hne => exec_lookupctx_of_heldPrefix_eq hcfg ht (hother id' hne)⟩
    rw [exec_lookupctx ht, lookupContext_eq, hsame]
    rfl
  · have ht : t.cfg.admitted = true := exec_cfg hexec ▸ hcfg
    rw [exec_rmctx hcfg] at hexec
    obtain rfl : removeContext id s = t := Host.Outcome.next.inj hexec
    obtain ⟨hsame, hother⟩ := heldPrefix_removeContext id s
    refine ⟨?_, fun id' r hne => exec_lookupctx_of_heldPrefix_eq hcfg ht (hother id' hne)⟩
    rw [exec_lookupctx ht, lookupContext_eq, hsame]
    rfl

/-- Settles O15: the search compares prefixes as numbers, which is to compare their bytes (`eq_prefixOf_iff`). -/
theorem prefixLookupLowestSlot : Obligations.PrefixLookupLowestSlot := by
  intro ctx A hA
  have hmatch (c : CtxSlot) :
      (c.inUse && c.pfx == prefixOf A) = true ↔ c.inUse = true ∧ prefixBytes c.pfx = A.take 8 := by
    rw [Bool.and_eq_true, beq_iff_eq, eq_prefixOf_iff hA]
  have hmiss {c : CtxSlot} (h : ¬(c.inUse = true ∧ prefixBytes c.pfx = A.take 8)) :
      (c.inUse && c.pfx == prefixOf A) = false := Bool.eq_false_iff.mpr (mt (hmatch c).mp h)
  refine ⟨fun k c hk huse hpfx hlow => ?_, fun habsent => ?_⟩
  · rw [lookupByPrefix, findSlot_of_lowest hk ((hmatch c).mpr ⟨huse, hpfx⟩) fun j d hj hd => hmiss (hlow j d hj hd)]
    rfl
  · rw [lookupByPrefix, findSlot_eq_none.mpr fun d hd => hmiss (habsent d hd)]
    rfl

/-- Settles O54, by the effect of each instruction: the two that write the table are the ones excluded. -/
theorem onlyContextCommandsWriteContexts : Obligations.OnlyContextCommandsWriteContexts := by
  intro s t i h hset hrm
  cases exec_effect h with
  | refused held | quiet held | nextTag _ held => exact held.ctx
  | setctx => exact absurd rfl (hset _ _)
  | rmctx => exact absurd rfl (hrm _)
  | @receive _ _ c f S R held =>
    obtain ⟨-, hctx, -⟩ := finishRx_rxClass_frame c f S R s
    exact held ▸ hctx
  | tick held | flush held => exact held ▸ rfl

/-- Settles O12: RMCTX maps each slot to itself or to itself made free. -/
theorem rmctxResult : Obligations.RmctxResult := by
  intro s id hcfg
  refine ⟨(removeContext id s).ctx, exec_rmctx hcfg id, List.length_map .., fun k c hk => ?_⟩
  rw [removeContext, State.complete_ctx, State.setCtx_ctx, List.getElem?_map, hk, Option.map_some]
  simp only [CtxSlot.holds_iff]

end Sys2Proof.Proofs.ContextFamily

/-! ### Address modes (41_address_mode.md): O17, O19. -/

namespace Sys2Proof.Machine

/-! The two kinds of address that R124 and R125 tell apart. -/

theorem isLinkLocal_iff {A : ByteString} : isLinkLocal A = true ↔ A.take 8 = [0xFE, 0x80, 0, 0, 0, 0, 0, 0] :=
  beq_iff_eq

theorem isMulticast_iff {A : ByteString} : isMulticast A = true ↔ byteAt A 0 = 0xFF := beq_iff_eq

/-! The ways an address is compressed (R124, R125). -/

section Paths

variable {ctx : List CtxSlot} {A : ByteString} {L : LinkAddr}

theorem ucastPath_of_linkLocal (h : isLinkLocal A = true) :
    ucastPath ctx A L =
      { m := 0, ac := 0, mode := ucastMode A L, ctxId := none, bytes := ucastInline A (ucastMode A L) } := if_pos h

theorem ucastPath_of_context (h : ¬isLinkLocal A = true) {id : CtxId} (hctx : lookupByPrefix ctx A = some id) :
    ucastPath ctx A L =
      { m := 0, ac := 1, mode := ucastMode A L, ctxId := some id, bytes := ucastInline A (ucastMode A L) } := by
  rw [ucastPath, if_neg h, hctx]

theorem ucastPath_of_no_context (h : ¬isLinkLocal A = true) (hctx : lookupByPrefix ctx A = none) :
    ucastPath ctx A L = { m := 0, ac := 0, mode := 0, ctxId := none, bytes := slice A 0 16 } := by
  rw [ucastPath, if_neg h, hctx]

theorem dstPath_of_multicast (h : isMulticast A = true) :
    dstPath ctx A L =
      { m := 1, ac := 0, mode := mcastMode A, ctxId := none, bytes := mcastInline A (mcastMode A) } := if_pos h

/-- A destination that is not multicast goes the source's way (the last lines of R125). -/
theorem dstPath_of_not_multicast (h : ¬isMulticast A = true) : dstPath ctx A L = srcPath ctx A L := if_neg h

end Paths

end Sys2Proof.Machine

namespace Sys2Proof.Proofs.AddressModeFamily

open Sys2Proof.Machine

/-- Settles O17, by the three kinds of link-layer address: the length of its bytes tells each from the other two. -/
theorem derivedIidByLength : Obligations.DerivedIidByLength := by
  intro L
  cases L with
  | short => exact ⟨rfl, fun _ => rfl, nofun, nofun⟩
  | mac => exact ⟨rfl, nofun, fun _ => rfl, nofun⟩
  | eui64 => exact ⟨rfl, nofun, nofun, fun _ => rfl⟩

/-- Settles O19, one path at a time; 16 bytes inline are the whole address. -/
theorem addressPaths : Obligations.AddressPaths := by
  intro ctx A L hA
  have hwhole : slice A 0 16 = A := hA ▸ slice_zero_length A
  refine ⟨fun hll => ucastPath_of_linkLocal (isLinkLocal_iff.mpr hll),
    fun hll id hctx => ucastPath_of_context (mt isLinkLocal_iff.mp hll) hctx, fun hll hctx => ?_,
    fun hmc => dstPath_of_multicast (isMulticast_iff.mpr hmc),
    fun hmc => dstPath_of_not_multicast (mt isMulticast_iff.mp hmc)⟩
  rw [srcPath, ucastPath_of_no_context (mt isLinkLocal_iff.mp hll) hctx, hwhole]

end Sys2Proof.Proofs.AddressModeFamily

/-! ### The IPHC encoder (42_iphc_encoder.md): O20, O21, O22, O23, O24. -/

namespace Sys2Proof.Machine

/-! Parts of words joined into bytes, as numbers (R9). -/

/-- A word joined from two is the high one times the low one's range, plus the low one. -/
theorem append_toNat {m n : Nat} (a : BitVec m) (b : BitVec n) : (a ++ b).toNat = a.toNat * 2 ^ n + b.toNat := by
  rw [BitVec.toNat_append, ← Nat.shiftLeft_add_eq_or_of_lt b.isLt, Nat.shiftLeft_eq]

/-- Two nibbles joined, as a number. -/
theorem nibbles_eq_ofNat (a b : BitVec 4) : (a ++ b : Byte) = BitVec.ofNat 8 (a.toNat * 16 + b.toNat) :=
  BitVec.eq_of_toNat_eq (by rw [append_toNat, BitVec.toNat_ofNat]; omega)

/-- `be_bytes` gives back the two bytes that `be16` read (R9). -/
theorem beBytes2_be16 (S : ByteString) (i : Nat) : beBytes2 (be16 S i) = [byteAt S i, byteAt S (i + 1)] := by
  rw [beBytes2, be16, BitVec.extractLsb'_append_eq_left, BitVec.extractLsb'_append_eq_right]

/-- The low byte of what `be16` read (R9). -/
theorem be16_low (S : ByteString) (i : Nat) : (be16 S i).extractLsb' 0 8 = byteAt S (i + 1) :=
  BitVec.extractLsb'_append_eq_right

/-! The traffic class and flow label bytes (R73, R127). -/

/-- DSCP is zero for the classes below 4 (R127). -/
theorem dscp_eq_zero_iff (tc : BitVec 8) : tc.extractLsb' 2 6 = 0 ↔ tc.toNat / 4 = 0 := by
  have := tc.isLt
  rw [BitVec.toNat_eq, BitVec.extractLsb'_toNat, Nat.shiftRight_eq_div_pow]
  change _ = 0 ↔ _
  omega

/-- ECN before DSCP (R73). -/
theorem ecn_dscp_eq_ofNat (tc : BitVec 8) :
    (tc.extractLsb' 0 2 ++ tc.extractLsb' 2 6 : Byte) = BitVec.ofNat 8 (tc.toNat % 4 * 64 + tc.toNat / 4) := by
  have hdscp : tc.toNat / 4 < 64 := Nat.div_lt_of_lt_mul tc.isLt
  apply BitVec.eq_of_toNat_eq
  simp only [append_toNat, BitVec.extractLsb'_toNat, BitVec.toNat_ofNat, Nat.shiftRight_eq_div_pow, Nat.reducePow,
    Nat.div_one, Nat.mod_eq_of_lt hdscp]
  omega

/-- ECN, two zero bits, and flow label bits 19..16 (R73). -/
theorem ecn_fl_eq_ofNat (tc : BitVec 8) (fl : BitVec 20) :
    (tc.extractLsb' 0 2 ++ 0#2 ++ fl.extractLsb' 16 4 : Byte) =
      BitVec.ofNat 8 (tc.toNat % 4 * 64 + fl.toNat / 65536) := by
  have := fl.isLt
  apply BitVec.eq_of_toNat_eq
  simp only [append_toNat, BitVec.extractLsb'_toNat, BitVec.toNat_ofNat, Nat.shiftRight_eq_div_pow, Nat.reducePow,
    Nat.div_one]
  omega

/-- Four zero bits and flow label bits 19..16 (R73). -/
theorem fl_high_eq_ofNat (fl : BitVec 20) :
    (0#4 ++ fl.extractLsb' 16 4 : Byte) = BitVec.ofNat 8 (fl.toNat / 65536) := by
  have := fl.isLt
  rw [nibbles_eq_ofNat, BitVec.extractLsb'_toNat, Nat.shiftRight_eq_div_pow, BitVec.toNat_ofNat]
  congr 1
  omega

/-- Flow label bits 15..8 (R73). -/
theorem fl_middle_eq_ofNat (fl : BitVec 20) : fl.extractLsb' 8 8 = BitVec.ofNat 8 (fl.toNat / 256 % 256) := by
  apply BitVec.eq_of_toNat_eq
  simp [BitVec.extractLsb'_toNat, Nat.shiftRight_eq_div_pow]

/-- Flow label bits 7..0 (R73). -/
theorem fl_low_eq_ofNat (fl : BitVec 20) : fl.extractLsb' 0 8 = BitVec.ofNat 8 (fl.toNat % 256) := by
  apply BitVec.eq_of_toNat_eq
  simp [BitVec.extractLsb'_toNat]

/-! The port mode and the port bytes (R79, R131). -/

/-- To mask the low four bits is to shift them out and back: the sixteen ports 0xF0B0..0xF0BF (R79). -/
theorem portInRange_iff (p : BitVec 16) : portInRange p = true ↔ 0xF0B0 ≤ p.toNat ∧ p.toNat ≤ 0xF0BF := by
  have hmask : p >>> 4 <<< 4 = p &&& 0xFFF0#16 := BitVec.shiftLeft_ushiftRight
  have := p.isLt
  rw [portInRange, beq_iff_eq, ← hmask, BitVec.toNat_eq, BitVec.toNat_shiftLeft, BitVec.toNat_ushiftRight,
    Nat.shiftLeft_eq, Nat.shiftRight_eq_div_pow, BitVec.toNat_ofNat]
  omega

/-- Both ports in range: one byte of their low nibbles (R79). -/
theorem port_nibbles_eq_ofNat (sp dp : BitVec 16) :
    (sp.extractLsb' 0 4 ++ dp.extractLsb' 0 4 : Byte) =
      BitVec.ofNat 8 (sp.toNat % 16 * 16 + dp.toNat % 16) := by
  simp only [nibbles_eq_ofNat, BitVec.extractLsb'_toNat, Nat.shiftRight_zero, Nat.reducePow]

/-- The port mode and the port bytes, by the numbers the ports are (R131). -/
theorem portEnc_eq (sp dp : BitVec 16) :
    portEnc sp dp =
      if (0xF0B0 ≤ sp.toNat ∧ sp.toNat ≤ 0xF0BF) ∧ 0xF0B0 ≤ dp.toNat ∧ dp.toNat ≤ 0xF0BF then
        (3, [BitVec.ofNat 8 (sp.toNat % 16 * 16 + dp.toNat % 16)])
      else if 0xF0B0 ≤ sp.toNat ∧ sp.toNat ≤ 0xF0BF then (2, [sp.extractLsb' 0 8] ++ beBytes2 dp)
      else if 0xF0B0 ≤ dp.toNat ∧ dp.toNat ≤ 0xF0BF then (1, beBytes2 sp ++ [dp.extractLsb' 0 8])
      else (0, beBytes2 sp ++ beBytes2 dp) := by
  simp only [portEnc, Bool.and_eq_true, portInRange_iff, port_nibbles_eq_ofNat]

/-! ENCODE (R121, R122). -/

/-- The version as a number (R14). -/
theorem pktVersion_eq_six_iff (pkt : ByteString) : pktVersion pkt = 6#4 ↔ (byteAt pkt 0).toNat / 16 = 6 := by
  have := (byteAt pkt 0).isLt
  rw [pktVersion, BitVec.toNat_eq, BitVec.extractLsb'_toNat, Nat.shiftRight_eq_div_pow, BitVec.toNat_ofNat]
  omega

/-- The precondition on a packet, byte by byte (R121). -/
theorem packetOk_iff (pkt : ByteString) :
    packetOk pkt = true ↔
      40 ≤ pkt.length ∧ (byteAt pkt 0).toNat / 16 = 6 ∧
      (byteAt pkt 4).toNat * 256 + (byteAt pkt 5).toNat = pkt.length - 40 ∧
      (byteAt pkt 6 = 17 →
        48 ≤ pkt.length ∧ (byteAt pkt 44).toNat * 256 + (byteAt pkt 45).toNat = pkt.length - 40) := by
  rw [packetOk, decide_eq_true_iff, pktVersion_eq_six_iff, pktPayloadLen, pktUdpLen, be16_toNat, be16_toNat]
  rfl

theorem encodePacket_of_fits {pkt : ByteString} {s : State} (h : pkt.length ≤ s.cfg.outCap) (a b : LinkAddr) :
    encodePacket pkt a b s = s.complete .ok none (.encoded (compress s.ctx pkt a b) (replacedLen pkt)) :=
  if_neg (by omega)

theorem encodePacket_of_too_long {pkt : ByteString} {s : State} (h : s.cfg.outCap < pkt.length) (a b : LinkAddr) :
    encodePacket pkt a b s = s.complete .bufferTooSmall none .none := if_pos h

/-- ENCODE of a packet that meets the precondition runs (R121). -/
theorem exec_encode {pkt : ByteString} {s : State} (hcfg : s.cfg.admitted = true) (hpkt : packetOk pkt = true)
    (a b : LinkAddr) : exec (.encode pkt a b) s = .next (encodePacket pkt a b s) := State.accept_of_ok _ hcfg hpkt

/-- ENCODE of any other packet is refused (R19, R121). -/
theorem exec_encode_refused {pkt : ByteString} (hpkt : ¬packetOk pkt = true) (s : State) (a b : LinkAddr) :
    exec (.encode pkt a b) s = .next s.refuse :=
  State.accept_of_not _ (by rw [Bool.eq_false_iff.mpr hpkt, Bool.and_false])

end Sys2Proof.Machine

namespace Sys2Proof.Proofs.EncoderFamily

open Sys2Proof.Machine

/-- Settles O22: the model's four cases are decided by the numbers (`dscp_eq_zero_iff`), and each byte is one
(`ecn_dscp_eq_ofNat` and the lemmas after it). -/
theorem trafficClassFlowLabelBytes : Obligations.TrafficClassFlowLabelBytes := by
  intro tc fl
  simp only [tfEnc, dscp_eq_zero_iff, ecn_dscp_eq_ofNat, ecn_fl_eq_ofNat, fl_high_eq_ofNat, fl_middle_eq_ofNat,
    fl_low_eq_ofNat]
  simp only [BitVec.toNat_eq]
  rfl

/-- Settles O24, one port mode at a time: the NHC byte holds the mode, and each port byte is a byte of the packet. -/
theorem udpHeaderBytes : Obligations.UdpHeaderBytes := by
  intro pkt
  simp only [udpEnc, pktSrcPort, pktDstPort, pktChecksum, portEnc_eq, be16_toNat, beBytes2_be16, be16_low,
    Nat.reduceAdd]
  split_ifs
  all_goals simp

/-- Settles O20: ENCODE runs, and the buffer holds the packet. -/
theorem encodeResult : Obligations.EncodeResult := by
  intro s pkt a b hcfg hpkt hfits
  rw [exec_encode hcfg hpkt, encodePacket_of_fits hfits, replacedLen_eq]
  rfl

/-- Settles O21: the precondition is the test ENCODE makes (`packetOk_iff`), and past it comes the capacity check. -/
theorem encodeRefusalAndCapacity : Obligations.EncodeRefusalAndCapacity := by
  intro s pkt a b hcfg
  refine ⟨fun hbad => exec_encode_refused (mt (packetOk_iff pkt).mp hbad) s a b, fun hpre hlong => ?_⟩
  rw [exec_encode hcfg ((packetOk_iff pkt).mpr hpre), encodePacket_of_too_long hlong]
  rfl

/-- Settles O23: both encoders compare bytes, which is to compare the numbers they are. -/
theorem hopLimitNextHeaderCodes : Obligations.HopLimitNextHeaderCodes := by
  intro v
  simp only [hlimEnc, nhEnc, BitVec.toNat_eq]
  exact ⟨rfl, rfl⟩

end Sys2Proof.Proofs.EncoderFamily

/-! ### The fragmenter (43_fragmenter.md): O28, O29, O30, O31, O32, O34, O50. -/

namespace Sys2Proof.Machine

/-! The continuation frames of a datagram (R146). -/

/-- The continuation frame that carries bytes `off` to `stop` of a datagram (R146). -/
def contFrame (tag : Tag) (cdg : ByteString) (off stop : Nat) : ByteString :=
  fragNFrame (BitVec.ofNat 11 cdg.length) tag (BitVec.ofNat 8 (off / 8)) (slice cdg off stop)

@[simp] theorem frameClass_contFrame (tag : Tag) (cdg : ByteString) (off stop : Nat) :
    frameClass (contFrame tag cdg off stop) = .fragN := frameClass_fragNFrame _ _ _ _

@[simp] theorem fragData_contFrame (tag : Tag) (cdg : ByteString) (off stop : Nat) :
    fragData (contFrame tag cdg off stop) = slice cdg off stop := by
  simp [fragData, contFrame]

@[simp] theorem frameClass_firstFrame (B : Nat) (tag : Tag) (cdg : ByteString) :
    frameClass (firstFrame B tag cdg) = .frag1 := frameClass_frag1Frame _ _ _

@[simp] theorem fragData_firstFrame (B : Nat) (tag : Tag) (cdg : ByteString) :
    fragData (firstFrame B tag cdg) = slice cdg 0 (firstLen B) := by
  simp [fragData, firstFrame]

/-- The continuation frames from `off` on, without the loop's fuel: the rest of the datagram in one frame where it fits,
else `floor8(B − 5)` bytes and the frames after them. -/
inductive Continuations (B : Nat) (tag : Tag) (cdg : ByteString) : Nat → List ByteString → Prop
  | last {off : Nat} (hoff : off < cdg.length) (hrest : cdg.length - off ≤ B - 5) :
      Continuations B tag cdg off [contFrame tag cdg off cdg.length]
  | more {off : Nat} {Fs : List ByteString} (hrest : B - 5 < cdg.length - off)
      (rest : Continuations B tag cdg (off + floor8 (B - 5)) Fs) :
      Continuations B tag cdg off (contFrame tag cdg off (off + floor8 (B - 5)) :: Fs)

section Loop

variable {B : Nat} {tag : Tag} {cdg : ByteString} {off : Nat}

/-- With fuel for the bytes left, the loop of R146 gives the continuation frames. -/
theorem contFrames_continuations (hB : 13 ≤ B) {fuel : Nat} (hoff : off < cdg.length) (hfuel : cdg.length ≤ off + fuel) :
    Continuations B tag cdg off (contFrames B tag cdg fuel off) := by
  induction fuel generalizing off with
  | zero => omega
  | succ fuel ih =>
    rw [contFrames_step hoff]
    by_cases hrest : cdg.length - off ≤ B - 5
    · have hn : off + contLen B cdg.length off = cdg.length := by rw [contLen, if_pos hrest]; omega
      rw [hn, contFrames_end le_rfl]
      exact .last hoff hrest
    · have hn : contLen B cdg.length off = floor8 (B - 5) := if_neg hrest
      have hle := floor8_le (B - 5)
      have hpos := le_floor8 (x := B - 5) (by omega)
      rw [hn]
      exact .more (by omega) (ih (by omega) (by omega))

/-- A datagram longer than the budget is a first frame and the continuations after it (R145, R146). -/
theorem fragFrames_continuations (hB : 13 ≤ B) (hlen : B < cdg.length) :
    ∃ Fs, fragFrames B tag cdg = firstFrame B tag cdg :: Fs ∧ Continuations B tag cdg (firstLen B) Fs := by
  have hle := floor8_le (B - 4)
  exact ⟨_, rfl, contFrames_continuations hB (by rw [firstLen]; omega) (by omega)⟩

namespace Continuations

variable {Fs : List ByteString}

theorem off_lt_length (h : Continuations B tag cdg off Fs) : off < cdg.length := by
  cases h with
  | last hoff _ => exact hoff
  | more hrest _ => omega

theorem length_pos (h : Continuations B tag cdg off Fs) : 0 < Fs.length := by
  cases h <;> exact Nat.succ_pos _

/-- How many continuation frames there are: one, and one more for every `floor8(B − 5)` bytes, or part of them, that the
last frame cannot hold (R149). -/
theorem length_eq (h : Continuations B tag cdg off Fs) (hB : 13 ≤ B) :
    Fs.length = 1 + (cdg.length - off - (B - 5) + floor8 (B - 5) - 1) / floor8 (B - 5) := by
  have hpos := le_floor8 (x := B - 5) (by omega)
  induction h with
  | last _ hrest => rw [Nat.div_eq_of_lt (by omega), List.length_singleton]
  | @more off Fs hrest _ ih =>
    have hturn : cdg.length - off - (B - 5) + floor8 (B - 5) - 1 =
        cdg.length - off - (B - 5) - 1 + floor8 (B - 5) := by omega
    rw [List.length_cons, ih, hturn, Nat.add_div_right _ (by omega)]
    by_cases hlast : cdg.length - off - (B - 5) ≤ floor8 (B - 5)
    · rw [Nat.div_eq_of_lt (by omega), Nat.div_eq_of_lt (by omega)]
    · have hnext : cdg.length - (off + floor8 (B - 5)) - (B - 5) + floor8 (B - 5) - 1 =
          cdg.length - off - (B - 5) - 1 := by omega
      rw [hnext]; omega

/-- The data of the continuation frames, in order, are the datagram from `off` on (R150). -/
theorem flatten_fragData (h : Continuations B tag cdg off Fs) :
    (Fs.map fragData).flatten = slice cdg off cdg.length := by
  induction h with
  | last => simp
  | more _ rest ih =>
    rw [List.map_cons, List.flatten_cons, ih, fragData_contFrame, slice_append_slice cdg (Nat.le_add_right _ _)]
    exact rest.off_lt_length.le

/-- The `j`-th continuation frame starts `j · floor8(B − 5)` bytes after the first, before the datagram's end; it carries
between 1 and `B − 5` bytes, and `floor8(B − 5)` unless it is the last (R146). -/
theorem getElem_eq (h : Continuations B tag cdg off Fs) (hB : 13 ≤ B) {j : Nat} {F : ByteString} (hj : Fs[j]? = some F) :
    let start := off + j * floor8 (B - 5)
    ∃ stop, F = contFrame tag cdg start stop ∧ start < stop ∧ stop ≤ cdg.length ∧ stop - start ≤ B - 5 ∧
      (j + 1 < Fs.length → stop = start + floor8 (B - 5)) := by
  have hpos := le_floor8 (x := B - 5) (by omega)
  have hle := floor8_le (B - 5)
  induction h generalizing j with
  | last hoff hrest =>
    obtain ⟨rfl, rfl⟩ : j = 0 ∧ _ = F := by simpa [List.getElem?_singleton] using hj
    exact ⟨cdg.length, by simp, by simpa using hoff, le_rfl, by simpa using hrest, by simp⟩
  | @more off Fs hrest rest ih =>
    cases j with
    | zero =>
      cases hj
      exact ⟨off + floor8 (B - 5), by simp, by omega, rest.off_lt_length.le, by omega, by simp⟩
    | succ j =>
      have hstart : off + floor8 (B - 5) + j * floor8 (B - 5) = off + (j + 1) * floor8 (B - 5) := by
        rw [Nat.succ_mul]; omega
      simpa only [hstart, List.length_cons, Nat.add_lt_add_iff_right] using ih hj

/-- No continuation frame is longer than the budget (R150). -/
theorem frame_length_le (h : Continuations B tag cdg off Fs) (hB : 13 ≤ B) : ∀ F ∈ Fs, F.length ≤ B := by
  intro F hF
  obtain ⟨j, hj⟩ := List.mem_iff_getElem?.mp hF
  obtain ⟨stop, rfl, -, -, hle, -⟩ := h.getElem_eq hB hj
  rw [contFrame, fragNFrame_length, slice_length]
  omega

end Continuations

end Loop

/-! What FRAGMENT does, by the size of the datagram (R140 to R148). -/

/-- A frame handed to the link, in one equation (R45). -/
theorem State.emitFrame_eq (d : LinkAddr) (F : ByteString) (s : State) :
    s.emitFrame d F =
      { s with
        verdicts := s.verdicts.tail
        draws := s.draws + (if s.verdicts = [] then 1 else 0)
        out := s.out ++ [.link d F s.nextVerdict] } := by
  apply State.eq_of_fields <;> simp

/-- The verdict of the next frame is the environment's where it has put one (R45). -/
theorem State.nextVerdict_of_cons {s : State} {w : Verdict} {ws : List Verdict} (h : s.verdicts = w :: ws) :
    s.nextVerdict = w := by
  rw [State.nextVerdict, h]

/-- How FRAGMENT completes when it has sent one frame (R142, R148). -/
def singleFrameCompletion : Verdict → Completion
  | .ok => ⟨.ok, none, .sent 1⟩
  | .fail => ⟨.linkTransmitFailure, none, .sent 0⟩

/-- Sending one frame: its verdict decides the status (R142, R148). -/
theorem transmitFrames_singleton (d : LinkAddr) (F : ByteString) (s : State) :
    transmitFrames d [F] s =
      { s with
        verdicts := s.verdicts.tail
        draws := s.draws + (if s.verdicts = [] then 1 else 0)
        out := s.out ++ [.link d F s.nextVerdict, .completion (singleFrameCompletion s.nextVerdict)] } := by
  cases hv : s.nextVerdict <;>
    simp [singleFrameCompletion, transmitFrames, emitFrames, hv, State.emitFrame_eq, State.complete, State.present]

/-- Sending frames, whatever verdicts come: the first that fails is the last, and the status and the count are those of the
frames accepted (R147, R148). -/
theorem transmitFrames_verdicts (d : LinkAddr) (Fs : List ByteString) (s : State) :
    ∃ (vs : List Verdict) (c : Completion),
      (∀ (j : Nat) (v w : Verdict), vs[j]? = some v → s.verdicts[j]? = some w → v = w) ∧
      transmitFrames d Fs s =
        { s with
          verdicts := s.verdicts.drop vs.length
          draws := s.draws + (vs.length - s.verdicts.length)
          out := s.out ++ List.zipWith (fun F v => .link d F v) Fs vs ++ [.completion c] } ∧
      ((vs = List.replicate Fs.length .ok ∧ c = ⟨.ok, none, .sent Fs.length⟩) ∨
        ∃ k, k < Fs.length ∧ vs = List.replicate k .ok ++ [.fail] ∧
          c = ⟨.linkTransmitFailure, none, .sent k⟩) := by
  obtain ⟨vs, hagree, hstate, hres⟩ := emitFrames_spec d Fs s
  rcases hres with ⟨hvs, hr⟩ | ⟨k, hk, hvs, hr⟩
  · exact ⟨vs, _, hagree, by simp only [transmitFrames, hstate, hr]; rfl, .inl ⟨hvs, rfl⟩⟩
  · exact ⟨vs, _, hagree, by simp only [transmitFrames, hstate, hr]; rfl, .inr ⟨k, hk, hvs, rfl⟩⟩

section Fragment

variable {s : State} {cdg : ByteString} (d : LinkAddr)

/-- FRAGMENT of a datagram that is not empty runs (R140). -/
theorem exec_fragment (hcfg : s.cfg.admitted = true) (hne : 0 < cdg.length) :
    exec (.fragment cdg d) s = .next (fragmentDatagram cdg d s) :=
  State.accept_of_ok _ hcfg (decide_eq_true hne)

/-- FRAGMENT of the empty datagram is refused (R19, R140). -/
theorem exec_fragment_nil (s : State) : exec (.fragment [] d) s = .next s.refuse :=
  State.accept_of_not _ (Bool.and_false _)

theorem fragmentDatagram_of_too_large (h : 2047 < cdg.length) :
    fragmentDatagram cdg d s = s.complete .datagramTooLarge none (.sent 0) := if_pos h

theorem fragmentDatagram_of_fits (hmax : cdg.length ≤ 2047) (h : cdg.length ≤ s.cfg.budget) :
    fragmentDatagram cdg d s = transmitFrames d [cdg] s := by
  rw [fragmentDatagram, if_neg hmax.not_gt, if_pos h]

theorem fragmentDatagram_of_fragmented (hmax : cdg.length ≤ 2047) (h : s.cfg.budget < cdg.length) :
    fragmentDatagram cdg d s =
      transmitFrames d (fragFrames s.cfg.budget s.tagCtr cdg) (s.setTag (s.tagCtr + 1)) := by
  rw [fragmentDatagram, if_neg hmax.not_gt, if_neg h.not_ge]

end Fragment

/-! Receiving what FRAGMENT sent (R161 to R168). -/

/-- RECV runs the class rule of its frame (R155). -/
theorem exec_recv {s : State} (hcfg : s.cfg.admitted = true) (f : ByteString) (S R : LinkAddr) :
    exec (.recv f S R) s = .next (finishRx (rxClass (frameClass f) f S R s)) :=
  State.accept_of_ok _ hcfg rfl

theorem execAll_cons {i : Instr} {is : List Instr} {s t : State} (h : exec i s = .next t) :
    execAll (i :: is) s = execAll is t := by
  rw [execAll, h]

/-- The state after a fragment that leaves its datagram incomplete: slot `k` holds the entry, and the frame is accepted
(R162, R168). -/
def storeAccepted (k : Nat) (e : ReassSlot) (s : State) : State := finishRx (s.writeReass k e, .fragAccepted)

@[simp] theorem storeAccepted_reass (k : Nat) (e : ReassSlot) (s : State) :
    (storeAccepted k e s).reass = s.reass.set k e := rfl

@[simp] theorem storeAccepted_stat (k : Nat) (e : ReassSlot) (s : State) : (storeAccepted k e s).stat = s.stat := rfl

@[simp] theorem storeAccepted_out (k : Nat) (e : ReassSlot) (s : State) :
    (storeAccepted k e s).out = s.out ++ [.completion ⟨.ok, some .fragAccepted, .none⟩] := rfl

/-- The sender's entry stays the one found when it is overwritten in place (R174). -/
theorem findSender_storeAccepted {s : State} {S : LinkAddr} {k : Nat} {e e' : ReassSlot}
    (hfound : findSender s S = some (k, e)) (hv : e'.valid = true) (hS : e'.sender = S) :
    findSender (storeAccepted k e' s) S = some (k, e') := by
  obtain ⟨hk, -, hlow⟩ := findSlot_eq_some hfound
  exact findSlot_set_of_lowest hk (by simp [hv, hS]) hlow

/-- A sender without an entry is found where its first one is written (R174). -/
theorem findSender_storeAccepted_new {s : State} {S : LinkAddr} {k : Nat} {e e' : ReassSlot}
    (hnone : findSender s S = none) (hfree : findFree s = some (k, e)) (hv : e'.valid = true) (hS : e'.sender = S) :
    findSender (storeAccepted k e' s) S = some (k, e') := by
  obtain ⟨hk, -, -⟩ := findSlot_eq_some hfree
  exact findSlot_set_of_lowest hk (by simp [hv, hS]) fun _ d _ hd =>
    findSlot_eq_none.mp hnone d (List.mem_of_getElem? hd)

/-- The entry with a continuation's data appended (R168). -/
def ReassSlot.grow (e : ReassSlot) (data : ByteString) : ReassSlot :=
  { e with buf := e.buf ++ data, rlen := e.rlen + BitVec.ofNat 11 data.length }

/-- The entry belongs to the sender's datagram, sent under the tag, and holds its first `off` bytes. -/
structure ReassSlot.Collects (e : ReassSlot) (S : LinkAddr) (tag : Tag) (cdg : ByteString) (off : Nat) : Prop where
  valid : e.valid = true
  sender : e.sender = S
  tag : e.tag = tag
  size : e.size = BitVec.ofNat 11 cdg.length
  buf : e.buf = slice cdg 0 off
  rlen : e.rlen = BitVec.ofNat 11 off

/-- From s to t the frames of a datagram came in: `n` of them were accepted, the next completed the entry in slot `k`, which
is free again, and handed the datagram to the decoder (R165, R167). -/
structure HandsOver (cdg : ByteString) (S R : LinkAddr) (k n : Nat) (s t : State) : Prop where
  out : t.out = s.out ++ List.replicate n (.completion ⟨.ok, some .fragAccepted, .none⟩) ++
    [.decoder cdg S R cdg.length, .completion ⟨.ok, some .reassToDecoder, .none⟩]
  stat : t.stat = s.stat.add .reassComplete 1
  reass : ∃ e : ReassSlot, e.valid = false ∧ t.reass = s.reass.set k e

section Receive

variable {s t : State} {S R : LinkAddr} {tag : Tag} {cdg : ByteString} {k off : Nat} {e : ReassSlot}

/-- One accepted frame more, before the others (R162, R168). -/
theorem HandsOver.of_accepted {n : Nat} (h : HandsOver cdg S R k n (storeAccepted k e s) t) :
    HandsOver cdg S R k (n + 1) s t where
  out := by simp [h.out, List.replicate_succ]
  stat := by rw [h.stat, storeAccepted_stat]
  reass := by
    obtain ⟨e', hv, ht⟩ := h.reass
    exact ⟨e', hv, by simp [ht]⟩

/-- A full entry that holds a compressed datagram completes, and hands it over (R165, R167). -/
theorem handsOver_storeEntry (hfull : e.rlen = e.size) (hbuf : e.buf = cdg) (hclass : frameClass cdg = .iphc) :
    HandsOver cdg S R k 0 s (finishRx (storeEntry k e S R s)) := by
  have hstore : storeEntry k e S R s =
      (((discardEntry k e (s.writeReass k e)).count .reassComplete).toDecoder cdg S R, .reassToDecoder) := by
    rw [storeEntry, if_pos hfull, completeEntry, postDispatch, hbuf, hclass]
  rw [hstore]
  exact ⟨by simp [finishRx, discardEntry], by simp [finishRx, discardEntry], { e with valid := false }, rfl,
    by simp [finishRx, discardEntry]⟩

/-- An entry short of its size waits for its continuation (R162, R168). -/
theorem finishRx_storeEntry_of_short (h : e.rlen ≠ e.size) :
    finishRx (storeEntry k e S R s) = storeAccepted k e s := by
  rw [storeEntry, if_neg h, storeAccepted]

/-- Data that go on where the entry ends make it hold the datagram that much further (R168). -/
theorem ReassSlot.Collects.grow (h : e.Collects S tag cdg off) {stop : Nat} (hoff : off ≤ stop)
    (hstop : stop ≤ cdg.length) : (e.grow (slice cdg off stop)).Collects S tag cdg stop where
  valid := h.valid
  sender := h.sender
  tag := h.tag
  size := h.size
  buf := by rw [ReassSlot.grow, h.buf, slice_append_slice cdg (Nat.zero_le _) hoff]
  rlen := by
    have : off + min (stop - off) (cdg.length - off) = stop := by omega
    rw [ReassSlot.grow, h.rlen, slice_length, ← BitVec.ofNat_add, this]

/-- An entry that holds less than its datagram is short of its size (R27 b). -/
theorem ReassSlot.Collects.short (h : e.Collects S tag cdg off) (hoff : off < cdg.length) (hmax : cdg.length ≤ 2047) :
    e.rlen ≠ e.size := by
  rw [h.rlen, h.size]
  exact ofNat_ne_size (by simp; omega)

/-- A first fragment from a sender without an entry starts one in the lowest free slot (R162). -/
theorem exec_recv_firstFrame {B : Nat} (hcfg : s.cfg.admitted = true) (hsender : findSender s S = none)
    (hfree : findFree s = some (k, e)) (hB : 13 ≤ B) (hlen : B < cdg.length) (hmax : cdg.length ≤ 2047) :
    ∃ e' : ReassSlot, e'.Collects S tag cdg (firstLen B) ∧
      exec (.recv (firstFrame B tag cdg) S R) s = .next (storeAccepted k e' s) := by
  have hle : firstLen B ≤ B - 4 := floor8_le _
  have hdata : (slice cdg 0 (firstLen B)).length = firstLen B := by rw [slice_length]; omega
  have hsize : (BitVec.ofNat 11 cdg.length).toNat = cdg.length := by simp; omega
  have hnew : (newEntry s.cfg S (BitVec.ofNat 11 cdg.length) tag (slice cdg 0 (firstLen B))).Collects S tag cdg
      (firstLen B) := ⟨rfl, rfl, rfl, rfl, rfl, by rw [newEntry, hdata]⟩
  have hok : ¬(BitVec.ofNat 11 cdg.length = 0 ∨
      (BitVec.ofNat 11 cdg.length).toNat < (slice cdg 0 (firstLen B)).length) := by
    rw [hdata, hsize, ← BitVec.toNat_inj, hsize]
    change ¬(cdg.length = 0 ∨ cdg.length < firstLen B)
    omega
  refine ⟨_, hnew, ?_⟩
  rw [exec_recv hcfg, frameClass_firstFrame,
    ← finishRx_storeEntry_of_short (S := S) (R := R) (hnew.short (by omega) hmax)]
  simp only [rxClass, rxFrag1, firstFrame, parseFrag1_frag1Frame, if_neg hok, placeFrag1, hsender, hfree]

/-- A continuation with the tag and size of its sender's entry goes to that entry (R163). -/
theorem rxClass_fragNFrame (hfound : findSender s S = some (k, e)) (off8 : Byte) (data : ByteString) :
    rxClass .fragN (fragNFrame e.size e.tag off8 data) S R s = extendEntry k e (off8.toNat * 8) data S R s := by
  simp [rxClass, rxFragN, hfound]

/-- The continuation at the entry's running length is appended to it (R163, R164, R166, R168). -/
theorem exec_recv_contFrame (hcfg : s.cfg.admitted = true) (hfound : findSender s S = some (k, e))
    (h : e.Collects S tag cdg off) (h8 : 8 ∣ off) (hoff : off < cdg.length) (hmax : cdg.length ≤ 2047) (stop : Nat) :
    exec (.recv (contFrame tag cdg off stop) S R) s =
      .next (finishRx (storeEntry k (e.grow (slice cdg off stop)) S R s)) := by
  have hrlen : e.rlen.toNat = off := by rw [h.rlen]; simp; omega
  have hsize : e.size.toNat = cdg.length := by rw [h.size]; simp; omega
  have hwhere : (BitVec.ofNat 8 (off / 8)).toNat * 8 = e.rlen.toNat := by rw [hrlen]; simp; omega
  have hroom : ¬e.size.toNat < e.rlen.toNat + (slice cdg off stop).length := by rw [hsize, hrlen, slice_length]; omega
  rw [exec_recv hcfg, frameClass_contFrame, contFrame, ← h.size, ← h.tag, rxClass_fragNFrame hfound, extendEntry,
    if_neg (not_not.mpr hwhere), if_neg hroom]
  rfl

end Receive

/-- The continuation frames, received in order where the entry holds what came before them, complete it (R165, R168). -/
theorem Continuations.handsOver {B : Nat} {tag : Tag} {cdg : ByteString} {off : Nat} {Fs : List ByteString}
    (h : Continuations B tag cdg off Fs) (hmax : cdg.length ≤ 2047) (hclass : frameClass cdg = .iphc) (S R : LinkAddr)
    {s : State} {k : Nat} {e : ReassSlot} (hcfg : s.cfg.admitted = true) (hfound : findSender s S = some (k, e))
    (he : e.Collects S tag cdg off) (h8 : 8 ∣ off) :
    ∃ t, execAll (Fs.map fun F => .recv F S R) s = .next t ∧ HandsOver cdg S R k (Fs.length - 1) s t := by
  induction h generalizing s e with
  | last hoff =>
    have hgrow := he.grow hoff.le le_rfl
    refine ⟨_, execAll_cons (exec_recv_contFrame hcfg hfound he h8 hoff hmax _), ?_⟩
    exact handsOver_storeEntry (hgrow.rlen.trans hgrow.size.symm) (by rw [hgrow.buf, slice_zero_length]) hclass
  | @more off Fs hrest rest ih =>
    have hstop := rest.off_lt_length
    have hgrow := he.grow (Nat.le_add_right off _) hstop.le
    have hrecv := exec_recv_contFrame (R := R) hcfg hfound he h8 (by omega) hmax (off + floor8 (B - 5))
    rw [finishRx_storeEntry_of_short (hgrow.short hstop hmax)] at hrecv
    obtain ⟨t, hrun, ht⟩ := ih (s := storeAccepted k (e.grow _) s) hcfg
      (findSender_storeAccepted hfound hgrow.valid hgrow.sender) hgrow (Nat.dvd_add h8 (floor8_dvd _))
    refine ⟨t, (execAll_cons hrecv).trans hrun, ?_⟩
    have hn : (contFrame tag cdg off (off + floor8 (B - 5)) :: Fs).length - 1 = Fs.length - 1 + 1 :=
      (Nat.sub_add_cancel rest.length_pos).symm
    rw [hn]
    exact ht.of_accepted

/-- The frames of a datagram, received in order from a sender without an entry where a slot is free, hand it over. -/
theorem fragFrames_handsOver {B : Nat} {cdg : ByteString} {S : LinkAddr} {s : State} {k : Nat} {e : ReassSlot}
    (hB : 13 ≤ B) (hlen : B < cdg.length) (hmax : cdg.length ≤ 2047) (hclass : frameClass cdg = .iphc)
    (hcfg : s.cfg.admitted = true) (hsender : findSender s S = none) (hfree : findFree s = some (k, e))
    (tag : Tag) (R : LinkAddr) :
    ∃ t, execAll ((fragFrames B tag cdg).map fun F => .recv F S R) s = .next t ∧
      HandsOver cdg S R k ((fragFrames B tag cdg).length - 1) s t := by
  obtain ⟨Fs, hFs, hconts⟩ := fragFrames_continuations (tag := tag) hB hlen
  obtain ⟨e', he', hrecv⟩ := exec_recv_firstFrame (tag := tag) (R := R) hcfg hsender hfree hB hlen hmax
  obtain ⟨t, hrun, ht⟩ := hconts.handsOver hmax hclass S R (s := storeAccepted k e' s) hcfg
    (findSender_storeAccepted_new hsender hfree he'.valid he'.sender) he' (floor8_dvd _)
  refine ⟨t, ?_, ?_⟩
  · rw [hFs]
    exact (execAll_cons hrecv).trans hrun
  · rw [hFs, List.length_cons, Nat.add_sub_cancel, ← Nat.sub_add_cancel hconts.length_pos]
    exact ht.of_accepted

end Sys2Proof.Machine

namespace Sys2Proof.Proofs.FragmenterFamily

open Sys2Proof.Machine

/-- Settles O50: the frames hand the datagram over (`fragFrames_handsOver`, by induction over the continuations), and the
one slot they wrote is free in the end. -/
theorem fragmentThenReassemble : Obligations.FragmentThenReassemble := by
  rintro s B tag cdg S R ⟨hcfg, -⟩ hB hlen hmax hclass hsender ⟨free, hmem, hfree⟩
  obtain ⟨⟨k, e⟩, hslot⟩ : ∃ p, findFree s = some p := by
    rw [← Option.isSome_iff_exists, Option.isSome_iff_ne_none]
    intro hnone
    simpa [hfree] using findSlot_eq_none.mp hnone free hmem
  obtain ⟨t, hrun, ht⟩ :=
    fragFrames_handsOver hB hlen hmax hclass hcfg (findSender_eq_none_of hsender) hslot tag R
  refine ⟨t, hrun, ht.out, ht.stat, ?_⟩
  obtain ⟨e', hv, hreass⟩ := ht.reass
  rw [hreass]
  intro d hd
  rcases List.mem_or_eq_of_mem_set hd with hold | rfl
  · exact hsender d hold
  · simp [hv]

/-- Settles O30: FRAGMENT sends its frames with the tag advanced, and sending frames answers to the verdicts
(`transmitFrames_verdicts`). -/
theorem fragmentEmission : Obligations.FragmentEmission := by
  intro s cdg d hcfg hlen hmax
  obtain ⟨vs, c, hagree, hstate, hres⟩ :=
    transmitFrames_verdicts d (fragFrames s.cfg.budget s.tagCtr cdg) (s.setTag (s.tagCtr + 1))
  refine ⟨vs, c, hagree, ?_, hres⟩
  rw [exec_fragment d hcfg (by omega), fragmentDatagram_of_fragmented d hmax hlen, hstate]
  rfl

/-- Settles O31: the first frame is built as R145 says, and the others are the continuation frames, each of which
`Continuations.getElem_eq` describes. -/
theorem fragmentFramesCarryDatagram : Obligations.FragmentFramesCarryDatagram := by
  intro B tag cdg hB hlen hmax size n1 kN Fs
  obtain ⟨conts, (hFs : Fs = _), hconts⟩ := fragFrames_continuations (tag := tag) hB hlen
  have hfirst : firstFrame B tag cdg = frag1Frame size tag (cdg.take n1) := rfl
  rw [hFs]
  refine ⟨?_, List.forall_mem_cons.mpr ⟨?_, hconts.frame_length_le hB⟩, rfl, fun j F hj => ?_⟩
  · rw [List.map_cons, List.flatten_cons, hconts.flatten_fragData, fragData_firstFrame,
      slice_append_slice cdg (Nat.zero_le _) hconts.off_lt_length.le, slice_zero_length]
  · have hn1 : n1 ≤ B - 4 := floor8_le _
    rw [hfirst, frag1Frame_length, List.length_take]
    omega
  · obtain ⟨stop, hF, hlt, hstop, -, hfull⟩ := hconts.getElem_eq hB (by rwa [List.getElem?_cons_succ] at hj)
    change F = contFrame tag cdg (n1 + j * kN) stop at hF
    change n1 + j * kN < stop at hlt
    have hdvd : 8 ∣ n1 + j * kN := Nat.dvd_add (floor8_dvd _) (Dvd.dvd.mul_left (floor8_dvd _) j)
    have hdata : (slice cdg (n1 + j * kN) stop).length = stop - (n1 + j * kN) := by rw [slice_length]; omega
    refine ⟨_, hF, hdvd, by omega, List.length_pos_iff.mp (by omega), fun hj => ?_⟩
    have : stop = n1 + j * kN + kN := hfull (Nat.lt_of_succ_lt_succ hj)
    omega

/-- Settles O32: the continuation frames are counted by `Continuations.length_eq`. -/
theorem fragmentCount : Obligations.FragmentCount := by
  intro B tag cdg hB hlen _ kN R
  obtain ⟨Fs, hFs, hconts⟩ := fragFrames_continuations (tag := tag) hB hlen
  have hpos : 8 ≤ kN := le_floor8 (by omega)
  have hcount : Fs.length = 1 + (R - (B - 5) + kN - 1) / kN := hconts.length_eq hB
  rw [hFs, List.length_cons, hcount]
  split
  case isTrue hfits => rw [Nat.div_eq_of_lt (by omega)]
  case isFalse => omega

/-- Settles O28, by the two sizes that FRAGMENT does not send. -/
theorem fragmentRejections : Obligations.FragmentRejections := by
  intro s cdg d hcfg
  constructor
  · rintro rfl
    exact exec_fragment_nil d s
  · intro hlarge
    rw [exec_fragment d hcfg (by omega), fragmentDatagram_of_too_large d hlarge]
    rfl

/-- Settles O29: the datagram itself is the one frame sent. -/
theorem fragmentSingleFrame : Obligations.FragmentSingleFrame := by
  intro s cdg d hcfg hne hmax hfits
  refine ⟨s.nextVerdict, fun w ws => State.nextVerdict_of_cons, ?_⟩
  rw [exec_fragment d hcfg (List.length_pos_iff.mpr hne), fragmentDatagram_of_fits d hmax hfits,
    transmitFrames_singleton]
  cases s.nextVerdict <;> rfl

/-- Settles O34: each row accepts what R145 or R146 sends, and hands it to the link. -/
theorem transmitRowsEmitOneFrame : Obligations.TransmitRowsEmitOneFrame := by
  intro s size tag off8 data d hcfg B off
  refine ⟨s.nextVerdict, fun w ws => State.nextVerdict_of_cons, ?_, ?_⟩
  · intro hsize hdata
    rw [← State.emitFrame_eq]
    exact State.accept_of_ok _ hcfg (decide_eq_true ⟨hsize, hdata⟩)
  · intro hsize hstart hend hdata
    rw [← State.emitFrame_eq]
    exact State.accept_of_ok _ hcfg (decide_eq_true ⟨hsize, hstart, hend, hdata⟩)

end Sys2Proof.Proofs.FragmenterFamily

/-! ### Dispatch and reassembly (44_dispatch_reassembly.md): O35, O36, O37, O38, O39, O40, O41, O42, O43, O44, O49. -/

namespace Sys2Proof.Machine

/-! TICK and FLUSH (R170, R172). -/

theorem exec_tick {s : State} (hcfg : s.cfg.admitted = true) : exec .tick s = .next (sweep s) :=
  State.accept_of_ok _ hcfg rfl

theorem exec_flush {s : State} (hcfg : s.cfg.admitted = true) : exec .flush s = .next (flushAll s) :=
  State.accept_of_ok _ hcfg rfl

/-- A sweep leaves a free slot as it is (R170). -/
theorem sweepSlot_of_free {e : ReassSlot} (hv : e.valid = false) : sweepSlot e = e := by
  simp [sweepSlot, hv]

/-- Where ttls are legal, the entries a sweep removes are the valid ones at 1 (R170). -/
theorem expires_eq {e : ReassSlot} (httl : e.valid = true → 1 ≤ e.ttl.toNat) :
    expires e = (e.valid && e.ttl.toNat == 1) := by
  cases hv : e.valid with
  | false => simp [expires, hv]
  | true =>
    obtain ⟨hexp, -⟩ := sweepSlot_valid hv (httl hv)
    rw [Bool.eq_iff_iff, hexp]
    simp

/-! How long an entry of a sender can last (R169 to R171). -/

/-- Every entry of the sender has at most `n` sweeps left. -/
def TtlAtMost (S : LinkAddr) (n : Nat) (l : List ReassSlot) : Prop :=
  ∀ e ∈ l, e.valid = true → e.sender = S → e.ttl.toNat ≤ n

section Timeout

variable {s t : State} {S : LinkAddr} {n : Nat} {i : Instr}

/-- A sweep takes one from what an entry has left (R170). -/
theorem sweep_ttlAtMost (hs : s.Inv) (h : TtlAtMost S n s.reass) : TtlAtMost S (n - 1) (sweep s).reass := by
  obtain ⟨-, -, hreass⟩ := State.inv_iff.mp hs
  intro e' he' hv' hS
  obtain ⟨e, he, rfl⟩ := List.mem_map.mp he'
  obtain ⟨hv, hsender⟩ := sweepSlot_sender hv'
  obtain ⟨-, -, hmin, -⟩ := hreass.legal e he hv
  obtain ⟨-, hswept⟩ := sweepSlot_valid hv hmin
  have hn := h e he hv (hsender.symm.trans hS)
  rw [hswept] at hv' ⊢
  split at hv'
  · simp at hv'
  next hlast =>
    rw [if_neg hlast, BitVec.toNat_ofNat]
    omega

/-- A frame that is no first fragment of the sender leaves its entries no more sweeps: a continuation does not write the ttl
(R168, R169). -/
theorem rxClass_ttlAtMost (h : TtlAtMost S n s.reass) {c : FrameClass} {S' : LinkAddr} (hstart : c = .frag1 → S' ≠ S)
    (f : ByteString) (R : LinkAddr) : TtlAtMost S n (rxClass c f S' R s).1.reass := by
  rcases rxClass_reass c f S' R s with hsame | ⟨k, old, e', hk, hset, -, hnew⟩
  · rwa [hsame]
  rw [hset]
  intro e he hv hS
  rcases List.mem_or_eq_of_mem_set he with hold | rfl
  · exact h e hold hv hS
  · rcases hnew hv with ⟨hc, ⟨size, tag, data, rfl, -⟩, -⟩ | ⟨-, hv', data, -, rfl⟩
    · exact absurd hS (hstart hc)
    · exact h old (List.mem_of_getElem? hk) hv' hS

/-- A received frame that starts no entry for the sender is another sender's or no first fragment (R162). -/
theorem ne_of_not_startsEntry {c : FrameClass} {f : ByteString} {S' R : LinkAddr} (hf : frameClass f = c)
    (hi : i ∈ [Instr.recv f S' R, classInstr c f S' R]) (hstart : i.startsEntry S = false) (hc : c = .frag1) :
    S' ≠ S := by
  subst hc
  simp only [List.mem_cons, List.not_mem_nil, or_false] at hi
  rcases hi with rfl | rfl
  · simpa [Instr.startsEntry, hf] using hstart
  · simpa [Instr.startsEntry, classInstr] using hstart

/-- No instruction but a first fragment of the sender gives its entries more sweeps (R169). -/
theorem exec_ttlAtMost (hstart : i.startsEntry S = false) (htick : i ≠ .tick) (h : exec i s = .next t)
    (hn : TtlAtMost S n s.reass) : TtlAtMost S n t.reass := by
  by_cases hrx : i.isReceive = true
  · rcases exec_receive hrx h with rfl | ⟨c, f, S', R, rfl, hf, hi⟩
    · exact hn
    · exact rxClass_ttlAtMost hn (ne_of_not_startsEntry hf hi hstart) f R
  by_cases hflush : i = .flush
  · subst hflush
    rcases State.accept_eq_next h with ⟨-, -, rfl⟩ | ⟨-, rfl⟩
    · intro e' he' hv'
      obtain ⟨e, -, rfl⟩ := List.mem_map.mp he'
      simp at hv'
    · exact hn
  · obtain ⟨hreass, -⟩ :=
      Proofs.StateFamily.onlyReceiveWritesReassembly s t i h (Bool.eq_false_iff.mpr hrx) htick hflush
    rwa [hreass]

/-- Instructions run one after the other are the first one and then the others (R58). -/
theorem execAll_cons_eq_next {is : List Instr} (h : execAll (i :: is) s = .next t) :
    ∃ u, exec i s = .next u ∧ execAll is u = .next t := by
  rw [execAll] at h
  split at h
  next u hu => exact ⟨u, hu, h⟩
  · cases h
  · cases h

/-- A run that starts no entry for the sender keeps the invariant, and each of its TICKs takes one from what the sender's
entries have left (R170, R171). -/
theorem execAll_ttlAtMost {is : List Instr} (hs : s.Inv) (hstart : ∀ i ∈ is, i.startsEntry S = false)
    (h : execAll is s = .next t) (hn : TtlAtMost S n s.reass) :
    t.Inv ∧ TtlAtMost S (n - is.count .tick) t.reass := by
  induction is generalizing s n with
  | nil =>
    cases h
    exact ⟨hs, by simpa using hn⟩
  | cons i is ih =>
    obtain ⟨u, hexec, hrun⟩ := execAll_cons_eq_next h
    obtain ⟨hi, his⟩ := List.forall_mem_cons.mp hstart
    have hu := exec_keeps_inv hs hexec
    by_cases htick : i = .tick
    · subst htick
      obtain rfl : sweep s = u := by simpa [exec_tick hs.1] using hexec
      rw [List.count_cons_self, Nat.add_comm, ← Nat.sub_sub]
      exact ih hu his hrun (sweep_ttlAtMost hs hn)
    · rw [List.count_cons_of_ne htick]
      exact ih hu his hrun (exec_ttlAtMost hi htick hexec hn)

end Timeout

/-! RECV and the rows of its classes (R155). -/

/-- The row of a class asks for a frame of that class, and completes its class rule (R155). -/
theorem exec_classInstr_eq_accept (c : FrameClass) (f : ByteString) (S R : LinkAddr) (s : State) :
    exec (classInstr c f S R) s = s.accept (frameClass f == c) (finishRx (rxClass c f S R s)) := by
  cases c <;> rfl

/-- A frame of the row's class completes with what its class rule answers (R155). -/
theorem exec_classInstr {s : State} {f : ByteString} {S R : LinkAddr} {r : State × RxOutcome} (c : FrameClass)
    (hcfg : s.cfg.admitted = true) (hclass : frameClass f = c) (hrule : rxClass c f S R s = r) :
    exec (classInstr c f S R) s = .next (finishRx r) := by
  rw [exec_classInstr_eq_accept, hrule]
  exact State.accept_of_ok _ hcfg (by simp [hclass])

/-- What a class rule presents before its completion completes nothing (R41, R43, R44). -/
theorem OneDelivery.completions_eq_nil {s t : State} (h : OneDelivery s t) :
    ∃ l, t.out = s.out ++ l ∧ completions l = [] := by
  rcases h with h | ⟨P, h⟩ | ⟨D, S, R, h⟩
  · exact ⟨[], by simp [h], rfl⟩
  · exact ⟨_, h, rfl⟩
  · exact ⟨_, h, rfl⟩

/-! Where a completed datagram goes (R165, R167). -/

/-- What the ports present for a completed datagram, by its first byte (R167). -/
def dispatchedOut (D : ByteString) (S R : LinkAddr) : List Output :=
  if frameClass D = .iphc then [.decoder D S R D.length, .completion ⟨.ok, some .reassToDecoder, .none⟩]
  else if frameClass D = .uncomp then [.ip (D.drop 1), .completion ⟨.ok, some .reassDeliveredIp, .none⟩]
  else [.completion ⟨.ok, some .dropCorrupt, .none⟩]

/-- The counters after a completed datagram is handed on: one moves where its first byte makes it corrupt (R167). -/
def dispatchedStat (D : ByteString) (t : Stats) : Stats :=
  if frameClass D = .iphc ∨ frameClass D = .uncomp then t else t.add .rxCorrupt 1

/-- A completed datagram goes where its first byte says, and nothing else changes (R167). -/
theorem finishRx_postDispatch (D : ByteString) (S R : LinkAddr) (s : State) :
    finishRx (postDispatch D S R s) =
      { s with stat := dispatchedStat D s.stat, out := s.out ++ dispatchedOut D S R } := by
  unfold postDispatch dispatchedStat dispatchedOut
  cases frameClass D with
  | iphc | uncomp => simp [finishRx, State.complete, State.toDecoder, State.deliverIp, State.present]
  | frag1 | fragN | unknown => rfl

/-- A full entry completes: its slot is free, it is counted, and its datagram is handed on (R165). -/
theorem finishRx_storeEntry_of_full {e : ReassSlot} (h : e.rlen = e.size) (k : Nat) (S R : LinkAddr) (s : State) :
    finishRx (storeEntry k e S R s) =
      { s with
        reass := s.reass.set k { e with valid := false }
        stat := dispatchedStat e.buf (s.stat.add .reassComplete 1)
        out := s.out ++ dispatchedOut e.buf S R } := by
  rw [storeEntry, if_pos h, completeEntry, finishRx_postDispatch]
  apply State.eq_of_fields <;> simp [discardEntry]

/-- An entry stored in a slot whose old entry was discarded overwrites it (R162). -/
theorem storeEntry_discardEntry (k : Nat) (e old : ReassSlot) (c : Counter) (S R : LinkAddr) (s : State) :
    storeEntry k e S R ((discardEntry k old s).count c) = storeEntry k e S R (s.count c) := by
  have hwrite : ((discardEntry k old s).count c).writeReass k e = (s.count c).writeReass k e := by
    apply State.eq_of_fields <;> simp [discardEntry]
  simp only [storeEntry, hwrite]

/-! First fragments (R160 to R162). -/

/-- The size of a header as a number (R87). -/
theorem headerSize_toNat (F : ByteString) :
    (headerSize F).toNat = (byteAt F 0).toNat % 8 * 256 + (byteAt F 1).toNat := by
  rw [headerSize, append_toNat3, BitVec.extractLsb'_toNat, Nat.shiftRight_zero]

/-- A first fragment with a truncated header, size 0, or more data than its size is corrupt (R160). -/
theorem rxFrag1_of_corrupt {f : ByteString}
    (h : f.length < 4 ∨ (headerSize f).toNat = 0 ∨ (headerSize f).toNat < f.length - 4) (S R : LinkAddr) (s : State) :
    rxFrag1 f S R s = dropFrame .rxCorrupt .dropCorrupt s := by
  rw [rxFrag1, parseFrag1_eq]
  by_cases hlen : 4 ≤ f.length
  · rw [if_pos hlen]
    have hbad : headerSize f = 0 ∨ (headerSize f).toNat < (f.drop 4).length := by
      rw [List.length_drop, ← BitVec.toNat_inj]
      exact h.resolve_left hlen.not_gt
    exact if_pos hbad
  · rw [if_neg hlen]

section FirstFragment

variable {s : State} {size : Size} {tag : Tag} {data : ByteString} {S R : LinkAddr} {k : Nat} {e : ReassSlot}

/-- A first fragment with a size its data fit is the table's to place (R160, R161). -/
theorem exec_rxFrag1_frag1Frame (hcfg : s.cfg.admitted = true) (hsize : size ≠ 0) (hlen : data.length ≤ size.toNat) :
    exec (.rxFrag1 (frag1Frame size tag data) S R) s = .next (finishRx (placeFrag1 size tag data S R s)) := by
  have hok : ¬(size = 0 ∨ size.toNat < data.length) := not_or.mpr ⟨hsize, hlen.not_gt⟩
  refine exec_classInstr .frag1 hcfg (frameClass_frag1Frame size tag data) ?_
  simp only [rxClass, rxFrag1, parseFrag1_frag1Frame, if_neg hok]

theorem placeFrag1_of_duplicate (hfound : findSender s S = some (k, e)) (hsame : e.tag = tag ∧ e.size = size) :
    placeFrag1 size tag data S R s = dropFrame .rxDupFrag1 .dropDup s := by
  simp only [placeFrag1, hfound, if_pos hsame]

theorem placeFrag1_of_other (hfound : findSender s S = some (k, e)) (hother : ¬(e.tag = tag ∧ e.size = size)) :
    placeFrag1 size tag data S R s =
      storeEntry k (newEntry s.cfg S size tag data) S R (s.count .reassReplaced) := by
  simp only [placeFrag1, hfound, if_neg hother, storeEntry_discardEntry]

theorem placeFrag1_of_free (hnone : findSender s S = none) (hfree : findFree s = some (k, e)) :
    placeFrag1 size tag data S R s = storeEntry k (newEntry s.cfg S size tag data) S R s := by
  simp only [placeFrag1, hnone, hfree]

theorem placeFrag1_of_no_slot (hnone : findSender s S = none) (hfull : findFree s = none) :
    placeFrag1 size tag data S R s = dropFrame .rxNoResource .dropNoResource s := by
  simp only [placeFrag1, hnone, hfull]

end FirstFragment

/-- No slot is found free exactly when every slot is valid (R161). -/
theorem findFree_eq_none_iff {s : State} : findFree s = none ↔ ∀ d ∈ s.reass, d.valid = true := by
  simp [findFree, findSlot_eq_none]

/-! Continuations (R163 to R168). -/

/-- A continuation with a truncated header is corrupt (R163). -/
theorem rxFragN_of_truncated {f : ByteString} (h : f.length < 5) (S R : LinkAddr) (s : State) :
    rxFragN f S R s = dropFrame .rxCorrupt .dropCorrupt s := by
  rw [rxFragN, parseFragN_eq, if_neg h.not_ge]

/-- A continuation that no entry of its sender matches by tag and size is dropped (R163). -/
theorem rxFragN_of_no_match {s : State} {S : LinkAddr} {size : Size} {tag : Tag}
    (h : ∀ d ∈ s.reass, d.valid = true → d.sender = S → ¬(d.tag = tag ∧ d.size = size)) (off8 : Byte)
    (data : ByteString) (R : LinkAddr) :
    rxFragN (fragNFrame size tag off8 data) S R s = dropFrame .rxNoEntry .dropNoEntry s := by
  rcases hfound : findSender s S with _ | ⟨k, e⟩
  · simp only [rxFragN, parseFragN_fragNFrame, hfound]
  · obtain ⟨hk, hmatch, -⟩ := findSlot_eq_some hfound
    obtain ⟨hv, hS⟩ : e.valid = true ∧ e.sender = S := by simpa using hmatch
    have hne : e.tag ≠ tag ∨ e.size ≠ size := not_and_or.mp (h e (List.mem_of_getElem? hk) hv hS)
    simp only [rxFragN, parseFragN_fragNFrame, hfound, if_pos hne]

section Continuation

variable {s : State} {S : LinkAddr} {k off : Nat} {e : ReassSlot} {data : ByteString}

/-- A continuation with the tag and size of its sender's entry goes to that entry (R163). -/
theorem exec_rxFragN_fragNFrame (hcfg : s.cfg.admitted = true) (hfound : findSender s S = some (k, e)) (off8 : Byte)
    (data : ByteString) (R : LinkAddr) :
    exec (.rxFragN (fragNFrame e.size e.tag off8 data) S R) s =
      .next (finishRx (extendEntry k e (off8.toNat * 8) data S R s)) :=
  exec_classInstr .fragN hcfg (frameClass_fragNFrame e.size e.tag off8 data) (rxClass_fragNFrame hfound off8 data)

theorem extendEntry_of_mismatch (hoff : off ≠ e.rlen.toNat) (R : LinkAddr) :
    extendEntry k e off data S R s = dropFrame .rxOffsetMismatch .dropOffset (discardEntry k e s) := if_pos hoff

theorem extendEntry_of_overflow (hoff : off = e.rlen.toNat) (hover : e.size.toNat < e.rlen.toNat + data.length)
    (R : LinkAddr) : extendEntry k e off data S R s = dropFrame .rxCorrupt .dropCorrupt (discardEntry k e s) := by
  rw [extendEntry, if_neg (not_not.mpr hoff), if_pos hover]

theorem extendEntry_of_fits (hoff : off = e.rlen.toNat) (hfits : e.rlen.toNat + data.length ≤ e.size.toNat)
    (R : LinkAddr) : extendEntry k e off data S R s = storeEntry k (e.grow data) S R s := by
  rw [extendEntry, if_neg (not_not.mpr hoff), if_neg hfits.not_gt, ReassSlot.grow]

/-- The running length after data are appended (R168). -/
theorem ReassSlot.grow_rlen (e : ReassSlot) (data : ByteString) :
    (e.grow data).rlen = BitVec.ofNat 11 (e.rlen.toNat + data.length) := by
  rw [BitVec.ofNat_add, BitVec.ofNat_toNat, BitVec.setWidth_eq]
  rfl

end Continuation

end Sys2Proof.Machine

namespace Sys2Proof.Proofs.ReassemblyFamily

open Sys2Proof.Machine

/-- Settles O49: every entry of a legal state has at most REASS_TIMEOUT sweeps left, and a run that starts none for the
sender takes one per TICK (`execAll_ttlAtMost`), where a valid entry has at least one. -/
theorem timeoutLaw : Obligations.TimeoutLaw := by
  intro s t S is hs hstart hticks hrun e he hv hS
  have hinit : TtlAtMost S s.cfg.reassTimeout s.reass := by
    intro d hd hdv _
    obtain ⟨-, -, hreass⟩ := State.inv_iff.mp hs
    obtain ⟨-, -, -, hmax⟩ := hreass.legal d hd hdv
    exact hmax
  obtain ⟨ht, hleft⟩ := execAll_ttlAtMost hs hstart hrun hinit
  obtain ⟨-, -, hreass⟩ := State.inv_iff.mp ht
  obtain ⟨-, -, hmin, -⟩ := hreass.legal e he hv
  have := hleft e he hv hS
  omega

/-- Settles O35: RECV and the row of the class complete the same class rule, which itself completes nothing
(`rxClass_out`). -/
theorem recvRunsItsClass : Obligations.RecvRunsItsClass := by
  intro s f S R
  constructor
  · rw [exec_classInstr_eq_accept, beq_self_eq_true]
    rfl
  · intro hcfg
    obtain ⟨l, hout, hl⟩ := (rxClass_out (frameClass f) f S R s).completions_eq_nil
    refine ⟨_, (rxClass (frameClass f) f S R s).2, l, exec_recv hcfg f S R, ?_, hl⟩
    rw [finishRx, State.complete_out, hout]

/-- Settles O37: each of the three defects makes the frame corrupt (`rxFrag1_of_corrupt`). -/
theorem firstFragmentCorrupt : Obligations.FirstFragmentCorrupt := by
  intro s f S R hcfg hclass size hbad
  exact exec_classInstr .frag1 hcfg hclass (rxFrag1_of_corrupt (by rwa [headerSize_toNat]) S R s)

/-- Settles O38, by what the two searches find. -/
theorem firstFragmentTable : Obligations.FirstFragmentTable := by
  intro s size tag data S R hcfg hsize hlen f done new
  have hexec : exec (.rxFrag1 f S R) s = _ := exec_rxFrag1_frag1Frame hcfg hsize hlen
  rw [hexec]
  refine ⟨fun k e hk hv hS hlow => ?_, fun habsent => ?_⟩
  · have hfound := findSender_of_lowest hk hv hS hlow
    refine ⟨fun hsame => ?_, fun hother hshort => ?_⟩
    · rw [placeFrag1_of_duplicate hfound hsame]
      rfl
    · rw [placeFrag1_of_other hfound hother, finishRx_storeEntry_of_short (ofNat_ne_size hshort)]
      rfl
  · have hnone := findSender_eq_none_of habsent
    refine ⟨fun k e hk hv hlow hshort => ?_, fun hfull => ?_⟩
    · rw [placeFrag1_of_free hnone (findFree_of_lowest hk hv hlow),
        finishRx_storeEntry_of_short (ofNat_ne_size hshort)]
      rfl
    · rw [placeFrag1_of_no_slot hnone (findFree_eq_none_iff.mpr hfull)]
      rfl

/-- Settles O39: the new entry is full, in the free slot or in place of the old entry. -/
theorem firstFragmentCompletes : Obligations.FirstFragmentCompletes := by
  intro s size tag data S R k e hcfg hlen hsize hk hlow hslot old
  have hfull : (newEntry s.cfg S size tag data).rlen = (newEntry s.cfg S size tag data).size := by
    simp [newEntry, hlen]
  refine ⟨{ newEntry s.cfg S size tag data with valid := false }, rfl, ?_⟩
  rw [exec_rxFrag1_frag1Frame hcfg hsize hlen.le, ← hlen]
  cases hv : e.valid with
  | true =>
    rw [if_pos hv] at hslot
    obtain ⟨hS, hother⟩ := hslot
    have hold : old = s.stat.add .reassReplaced 1 := if_pos hv
    rw [placeFrag1_of_other (findSender_of_lowest hk hv hS hlow) hother, finishRx_storeEntry_of_full hfull, hold]
    rfl
  | false =>
    rw [if_neg (by simp [hv])] at hslot
    obtain ⟨habsent, hlow'⟩ := hslot
    have hold : old = s.stat := if_neg (by simp [hv])
    rw [placeFrag1_of_free (findSender_eq_none_of habsent) (findFree_of_lowest hk hv hlow'),
      finishRx_storeEntry_of_full hfull, hold]
    rfl

/-- Settles O40, by the two ways a continuation finds no entry. -/
theorem continuationNoEntry : Obligations.ContinuationNoEntry := by
  intro s S R hcfg done
  constructor
  · intro f hclass hlen
    exact exec_classInstr .fragN hcfg hclass (rxFragN_of_truncated hlen S R s)
  · intro size tag off8 data habsent
    exact exec_classInstr .fragN hcfg (frameClass_fragNFrame size tag off8 data)
      (rxFragN_of_no_match habsent off8 data R)

/-- Settles O41: the offset is tested before the size, and either failure discards the entry. -/
theorem continuationDiscardsEntry : Obligations.ContinuationDiscardsEntry := by
  intro s k e off8 data R hcfg hk hv hlow hbad
  refine ⟨{ e with valid := false }, rfl, ?_⟩
  rw [exec_rxFragN_fragNFrame hcfg (findSender_of_lowest hk hv rfl hlow)]
  by_cases hoff : off8.toNat * 8 = e.rlen.toNat
  · rw [extendEntry_of_overflow hoff (hbad.resolve_left (not_not.mpr hoff)), if_neg (not_not.mpr hoff),
      if_neg (not_not.mpr hoff)]
    rfl
  · rw [extendEntry_of_mismatch hoff, if_pos hoff, if_pos hoff]
    rfl

/-- Settles O42: the entry grown by the data waits while it is short of its size, and completes when it is full. -/
theorem continuationAccepted : Obligations.ContinuationAccepted := by
  intro s k e off8 data R hcfg hk hv hlow hoff f D
  have hexec : exec (.rxFragN f e.sender R) s = _ :=
    exec_rxFragN_fragNFrame hcfg (findSender_of_lowest hk hv rfl hlow) off8 data R
  rw [hexec]
  refine ⟨fun hshort => ?_, fun hfull => ?_⟩
  · have hne : (e.grow data).rlen ≠ (e.grow data).size := by
      rw [ReassSlot.grow_rlen]
      exact ofNat_ne_size hshort
    rw [extendEntry_of_fits hoff hshort.le, finishRx_storeEntry_of_short hne, ← ReassSlot.grow_rlen]
    rfl
  · have heq : (e.grow data).rlen = (e.grow data).size := by
      rw [ReassSlot.grow_rlen, hfull, BitVec.ofNat_toNat, BitVec.setWidth_eq]
      rfl
    refine ⟨{ e.grow data with valid := false }, rfl, ?_⟩
    rw [extendEntry_of_fits hoff hfull.le, finishRx_storeEntry_of_full heq]
    rfl

/-- Settles O43: every slot is swept (`sweepSlot_valid`), and the entries removed are the valid ones at 1. -/
theorem tickResult : Obligations.TickResult := by
  intro s hcfg httl
  have hcount : s.reass.countP expires = s.reass.countP fun e => e.valid && e.ttl.toNat == 1 :=
    List.countP_congr fun e he => by rw [expires_eq (httl e he)]
  refine ⟨s.reass.map sweepSlot, ?_, List.length_map _, fun k e hk => ?_⟩
  · rw [exec_tick hcfg, ← hcount]
    rfl
  · rw [List.getElem?_map, hk, Option.map_some]
    have hmem := List.mem_of_getElem? hk
    refine ⟨fun hv => ?_, fun hv hlate => ?_, fun hv hlast => ?_⟩
    · rw [sweepSlot_of_free hv]
    · obtain ⟨-, hswept⟩ := sweepSlot_valid hv (httl e hmem hv)
      rw [hswept, if_neg (by omega)]
    · obtain ⟨-, hswept⟩ := sweepSlot_valid hv (httl e hmem hv)
      exact ⟨_, rfl, by rw [hswept, if_pos hlast]⟩

/-- Settles O36, one class at a time. -/
theorem singleFrameResults : Obligations.SingleFrameResults := by
  intro s d r S R hcfg rx
  refine ⟨?_, fun hmin hmax => ?_, fun f hclass => ?_⟩
  · have hclass : frameClass (0x41 :: r) = .uncomp := rfl
    exact exec_classInstr .uncomp hcfg hclass rfl
  · have hclass : frameClass (d :: r) = .iphc := by
      change classOfByte d = .iphc
      rw [classOfByte_eq_ranges, if_neg (by omega), if_pos ⟨hmin, hmax⟩]
    exact exec_classInstr .iphc hcfg hclass rfl
  · simp only [rx, List.append_nil]
    exact exec_classInstr .unknown hcfg hclass rfl

/-- Settles O44: every slot is freed, and every valid one counted. -/
theorem flushResult : Obligations.FlushResult := by
  intro s hcfg
  refine ⟨s.reass.map fun e : ReassSlot => { e with valid := false }, exec_flush hcfg, List.length_map _, fun e he => ?_⟩
  obtain ⟨d, -, rfl⟩ := List.mem_map.mp he
  rfl

end Sys2Proof.Proofs.ReassemblyFamily

/-! ### Status and outcome codes (60_exceptions.md): O6, O58, O60. -/

namespace Sys2Proof.Machine

/-- How an instruction that moves the block from s to t completes with c. `alone`: nothing is written but the status port.
`afterWork`: after whatever the ports presented before and whatever was written, with one of the two statuses R186 allows
there. -/
inductive CompletesWith (s t : State) (c : Completion) : Prop
  | alone (ht : t = s.present (.completion c))
  | afterWork (l : List Output) (hl : completions l = []) (hout : t.out = s.out ++ l ++ [.completion c])
      (hstatus : c.status = .ok ∨ c.status = .linkTransmitFailure)

namespace CompletesWith

variable {s t : State} {c : Completion}

/-- OK, with nothing presented before it (R41). -/
theorem ok_of_out_eq (hout : t.out = s.out ++ [.completion c]) (hc : c.status = .ok) : CompletesWith s t c :=
  .afterWork [] rfl (by simp [hout]) (.inl hc)

/-- The completion is the only one presented (R41). -/
theorem completions_eq (h : CompletesWith s t c) : completions (t.out.drop s.out.length) = [c] := by
  cases h with
  | alone ht => simp [ht]
  | afterWork l hl hout => simp [hout, hl]

/-- An error detected before any write leaves everything but the status port as it was (R186). -/
theorem eq_of_early (h : CompletesWith s t c)
    (hc : c.status ∈ [Status.outOfContexts, .bufferTooSmall, .datagramTooLarge, .illegalCommand]) :
    t = { s with out := s.out ++ [.completion c] } := by
  cases h with
  | alone ht => exact ht
  | afterWork l hl hout hstatus => rcases hstatus with h | h <;> simp [h] at hc

end CompletesWith

/-! What each command completes with (R183). -/

/-- SETCTX completes with OK, or with `OutOfContexts` and no slot written (R100). -/
theorem setContext_completes (id : CtxId) (pfx : Prefix64) (s : State) :
    ∃ c, CompletesWith s (setContext id pfx s) c ∧ c.status ∈ [Status.ok, .outOfContexts] := by
  rcases setContext_cases id pfx s with h | ⟨k, old, -, -, -, h⟩
  · exact ⟨_, .alone h, by simp⟩
  · rw [h]
    exact ⟨⟨.ok, none, .none⟩, .ok_of_out_eq rfl rfl, by simp⟩

/-- ENCODE completes with OK, or with `BufferTooSmall` alone (R122, R123). -/
theorem encodePacket_completes (pkt : ByteString) (a b : LinkAddr) (s : State) :
    ∃ c, CompletesWith s (encodePacket pkt a b s) c ∧ c.status ∈ [Status.ok, .bufferTooSmall] := by
  rcases Nat.lt_or_ge s.cfg.outCap pkt.length with h | h
  · exact ⟨_, .alone (encodePacket_of_too_long h a b), by simp⟩
  · exact ⟨_, .alone (encodePacket_of_fits h a b), by simp⟩

/-- FRAGMENT completes with `DatagramTooLarge` alone, or with OK or `LinkTransmitFailure` after its frames (R141, R148). -/
theorem fragmentDatagram_completes (cdg : ByteString) (d : LinkAddr) (s : State) :
    ∃ c, CompletesWith s (fragmentDatagram cdg d s) c ∧
      c.status ∈ [Status.ok, .datagramTooLarge, .linkTransmitFailure] := by
  obtain ⟨-, -, ⟨-, h⟩ | ⟨l, st, n, hl, hout, hst⟩⟩ := fragmentDatagram_spec cdg d s
  · exact ⟨_, .alone h, by simp⟩
  · refine ⟨_, .afterWork l (completions_links hl) hout hst, ?_⟩
    rcases hst with rfl | rfl <;> simp

/-- SEND completes with `BufferTooSmall` alone, or as FRAGMENT does (R151). -/
theorem sendPacket_completes (pkt : ByteString) (a b : LinkAddr) (s : State) :
    ∃ c, CompletesWith s (sendPacket pkt a b s) c ∧
      c.status ∈ [Status.ok, .bufferTooSmall, .datagramTooLarge, .linkTransmitFailure] := by
  rw [sendPacket_eq]
  split
  · exact ⟨_, .alone rfl, by simp⟩
  · obtain ⟨c, hcompletes, hstatus⟩ := fragmentDatagram_completes (compress s.ctx pkt a b) b s
    exact ⟨c, hcompletes, List.Sublist.mem hstatus (by decide)⟩

/-- RECV and its rows complete with OK, after what the frame delivers (R155). -/
theorem finishRx_rxClass_completes (c : FrameClass) (f : ByteString) (S R : LinkAddr) (s : State) :
    CompletesWith s (finishRx (rxClass c f S R s)) ⟨.ok, some (rxClass c f S R s).2, .none⟩ := by
  obtain ⟨l, hout, hl⟩ := (rxClass_out c f S R s).completions_eq_nil
  exact .afterWork l hl (by rw [finishRx, State.complete_out, hout]) (.inl rfl)

/-- RECV and the rows of its classes share one row of R183. -/
theorem statuses_of_receive_row {i : Instr} {c : FrameClass} {f : ByteString} {S R : LinkAddr}
    (hi : i ∈ [Instr.recv f S R, classInstr c f S R]) : i.statuses = [.ok] := by
  simp only [List.mem_cons, List.not_mem_nil, or_false] at hi
  rcases hi with rfl | rfl
  · rfl
  · cases c <;> rfl

/-- Every instruction completes nothing (the transmit rows, and a refusal), or completes once with a status of its row
(R41, R183). -/
theorem exec_completes {s t : State} {i : Instr} (h : exec i s = .next t) :
    completions (t.out.drop s.out.length) = [] ∨ ∃ c, CompletesWith s t c ∧ c.status ∈ i.statuses := by
  rcases exec_cases h with rfl | ⟨id, pfx, rfl, rfl⟩ | ⟨id, rfl, rfl⟩ | ⟨id, rfl, rfl⟩ | ⟨pkt, a, b, rfl, rfl⟩ |
    ⟨cdg, d, rfl, rfl⟩ | ⟨pkt, a, b, rfl, rfl⟩ | (⟨size, tag, data, d, -, rfl⟩ | ⟨size, tag, off8, data, d, -, rfl⟩) |
    ⟨-, c, f, S, R, rfl, -, hrow⟩ | ⟨rfl, rfl⟩ | ⟨rfl, rfl⟩ | ⟨hrow, -, rfl⟩
  · exact .inl (by simp [completions])
  · exact .inr (setContext_completes ..)
  · exact .inr ⟨⟨.ok, none, .none⟩, .ok_of_out_eq rfl rfl, by simp [Instr.statuses]⟩
  · exact .inr ⟨_, .alone (lookupContext_eq id s), by simp [Instr.statuses]⟩
  · exact .inr (encodePacket_completes ..)
  · exact .inr (fragmentDatagram_completes ..)
  · exact .inr (sendPacket_completes ..)
  · exact .inl (by simp [completions])
  · exact .inl (by simp [completions])
  · exact .inr ⟨_, finishRx_rxClass_completes .., by simp [statuses_of_receive_row hrow]⟩
  · exact .inr ⟨⟨.ok, none, .none⟩, .ok_of_out_eq rfl rfl, by simp [Instr.statuses]⟩
  · exact .inr ⟨⟨.ok, none, .none⟩, .ok_of_out_eq rfl rfl, by simp [Instr.statuses]⟩
  · exact .inr ⟨_, .alone rfl, by simp [hrow]⟩

end Sys2Proof.Machine

namespace Sys2Proof.Proofs.ExceptionFamily

open Sys2Proof.Machine

/-- Settles O58: an instruction completes nothing, or once and from its row (`exec_completes`). -/
theorem statusByCommand : Obligations.StatusByCommand := by
  intro s t i h c hc
  rcases exec_completes h with hnone | ⟨c', hcompletes, hstatus⟩
  · simp [hnone] at hc
  · rw [hcompletes.completions_eq, List.mem_singleton] at hc
    rwa [hc]

/-- Settles O60: a completion with one of these statuses is the whole effect (`CompletesWith.eq_of_early`). -/
theorem earlyErrorsWriteNothing : Obligations.EarlyErrorsWriteNothing := by
  intro s t i c h hc hearly
  rcases exec_completes h with hnone | ⟨c', hcompletes, -⟩
  · simp [hnone] at hc
  · rw [hcompletes.completions_eq, List.mem_singleton] at hc
    subst hc
    exact hcompletes.eq_of_early hearly

/-- Settles O6: each code, read from the two tables. -/
theorem statusAndOutcomeNumbers : Obligations.StatusAndOutcomeNumbers := ⟨rfl, rfl⟩

end Sys2Proof.Proofs.ExceptionFamily

/-! ### Reset and hazards (70_reset_and_hazards.md): O9. -/

namespace Sys2Proof.Machine

/-- Reset leaves no context slot in use (R35, R200). -/
theorem State.doReset_ctx_free {s : State} {c : CtxSlot} (hc : c ∈ s.doReset.ctx) : c.inUse = false := by
  rw [State.doReset_ctx] at hc
  rw [List.eq_of_mem_replicate hc]
  rfl

/-- Reset leaves no reassembly slot holding an entry (R35, R200). -/
theorem State.doReset_reass_free {s : State} {e : ReassSlot} (he : e ∈ s.doReset.reass) : e.valid = false := by
  rw [State.doReset_reass] at he
  rw [List.eq_of_mem_replicate he]
  rfl

end Sys2Proof.Machine

namespace Sys2Proof.Proofs.ResetFamily

open Sys2Proof.Machine

/-- Settles O9: the step is the reset of the state with that input taken (`step_of_reset`), and taking an input touches none
of the fields named. -/
theorem resetInput : Obligations.ResetInput := by
  intro s rest h
  refine ⟨s.dropInput.doReset, step_of_reset h, ?ctxLength, fun _ => State.doReset_ctx_free, ?reassLength,
    fun _ => State.doReset_reass_free, rfl, Stats.get_zero, rfl, rfl, rfl⟩
  case ctxLength => simp
  case reassLength => simp

end Sys2Proof.Proofs.ResetFamily
